-- ==== Sys2Proof/Word.lean ====
section
/-! DEFINITION. The machine's value types (00_scope.md R7, R8): every value is unsigned, bit 0 is the least
significant bit, and arithmetic wraps at the width of its type (R9). -/

namespace Sys2Proof

/-- One byte: a memory cell, a general register, a timer, an 8-bit immediate `nn`. -/
abbrev Byte := BitVec 8

/-- Sixteen bits: an instruction word, `I`, `pc`, a stack slot. -/
abbrev Word := BitVec 16

/-- The 12-bit operand `nnn` (30_encoding.md R73). -/
abbrev Addr := BitVec 12

/-- The index of a general register, V0 to VF (10_state.md R21). -/
abbrev RegIdx := Fin 16

/-- A key code, 0 to 15 (10_state.md R29). -/
abbrev KeyCode := Fin 16

/-- The index of VF, the flag (10_state.md R22). -/
abbrev vf : RegIdx := 15

end Sys2Proof
end

