-- ==== Sys2Proof/Config.lean ====
section
/-! DEFINITION. The constants 00_scope.md R4 fixes, the parameters R5 leaves to the launch, and the one free value
of the machine. -/

namespace Sys2Proof

/-- The launch parameters of 00_scope.md R5 (a) and (b): configuration, not state (10_state.md R35). Their default
values stand in Machine/Defaults.lean. -/
structure Config where
  /-- `strict_decode`: what an unknown instruction word does (30_encoding.md R80). -/
  strictDecode : Bool
  /-- `FONT`: memory 0x000..0x04F after Reset (10_state.md R31). -/
  font : Vector Byte 80
  deriving DecidableEq, Repr

/-- `MEM_SIZE`, bytes of memory (R4). -/
abbrev Config.memSize : Nat := 4096

/-- `FONT_LEN`, bytes of the font table at `FONT_BASE` = 0x000 (R4). -/
abbrev Config.fontLen : Nat := 80

/-- `GLYPH_BYTES`, bytes of one glyph (R4). -/
abbrev Config.glyphBytes : Nat := 5

/-- `PROG_BASE`, where Load puts the image and execution starts (R4). -/
abbrev Config.progBase : Nat := 0x200

/-- `MAX_IMAGE`, the largest image Load takes (R4). -/
abbrev Config.maxImage : Nat := 3584

/-- `STACK_DEPTH`, the return addresses the stack can hold (R4). -/
abbrev Config.stackDepth : Nat := 12

/-- `TIMER_HZ`, the nominal rate of Tick (R4): `TickTimers` counts in these steps (60_exceptions.md R192). -/
abbrev Config.timerHz : Nat := 60

/-- THE FREE VALUE of the machine: the byte the `n`-th `draw_byte()` answers (00_scope.md R5 (c), 41_alu.md R131).
It has no body, so no proof can know a value of it, and a statement proved about it holds for every sequence of
drawn bytes (log entry 1; DESIGN CHOICE of form, safe). -/
opaque Config.drawByte : Nat → Byte

end Sys2Proof
end

