-- ==== Sys2Proof/Syntax.lean ====
section
/-! DEFINITION. The instructions: one constructor per row of spec/opcode_table.json, in the table's order
(30_encoding.md R76). Operands are typed by their ranges (R73), so no constructor holds an operand the encoding
could not. -/

namespace Sys2Proof

/-- The 34 instructions of 30_encoding.md R76. -/
inductive Instr where
  /-- `CLS`, 00E0 -/
  | cls
  /-- `RET`, 00EE -/
  | ret
  /-- `JP nnn`, 1nnn -/
  | jp (nnn : Addr)
  /-- `CALL nnn`, 2nnn -/
  | call (nnn : Addr)
  /-- `SE Vx, nn`, 3xnn -/
  | seImm (x : RegIdx) (nn : Byte)
  /-- `SNE Vx, nn`, 4xnn -/
  | sneImm (x : RegIdx) (nn : Byte)
  /-- `SE Vx, Vy`, 5xy0 -/
  | seReg (x y : RegIdx)
  /-- `LD Vx, nn`, 6xnn -/
  | ldImm (x : RegIdx) (nn : Byte)
  /-- `ADD Vx, nn`, 7xnn -/
  | addImm (x : RegIdx) (nn : Byte)
  /-- `LD Vx, Vy`, 8xy0 -/
  | ldReg (x y : RegIdx)
  /-- `OR Vx, Vy`, 8xy1 -/
  | orReg (x y : RegIdx)
  /-- `AND Vx, Vy`, 8xy2 -/
  | andReg (x y : RegIdx)
  /-- `XOR Vx, Vy`, 8xy3 -/
  | xorReg (x y : RegIdx)
  /-- `ADD Vx, Vy`, 8xy4 -/
  | addReg (x y : RegIdx)
  /-- `SUB Vx, Vy`, 8xy5 -/
  | subReg (x y : RegIdx)
  /-- `SHR Vx`, 8xy6. The `y` field is in the encoding and ignored by the instruction (R74, R128). -/
  | shr (x y : RegIdx)
  /-- `SUBN Vx, Vy`, 8xy7 -/
  | subnReg (x y : RegIdx)
  /-- `SHL Vx`, 8xyE. The `y` field is in the encoding and ignored by the instruction (R74, R130). -/
  | shl (x y : RegIdx)
  /-- `SNE Vx, Vy`, 9xy0 -/
  | sneReg (x y : RegIdx)
  /-- `LD I, nnn`, Annn -/
  | ldI (nnn : Addr)
  /-- `JP V0, nnn`, Bnnn -/
  | jpV0 (nnn : Addr)
  /-- `RND Vx, nn`, Cxnn -/
  | rnd (x : RegIdx) (nn : Byte)
  /-- `DRW Vx, Vy, n`, Dxyn; `n` is the sprite's height in rows -/
  | drw (x y : RegIdx) (n : Fin 16)
  /-- `SKP Vx`, Ex9E -/
  | skp (x : RegIdx)
  /-- `SKNP Vx`, ExA1 -/
  | sknp (x : RegIdx)
  /-- `LD Vx, DT`, Fx07 -/
  | ldVxDT (x : RegIdx)
  /-- `LD Vx, K`, Fx0A -/
  | ldVxK (x : RegIdx)
  /-- `LD DT, Vx`, Fx15 -/
  | ldDTVx (x : RegIdx)
  /-- `LD ST, Vx`, Fx18 -/
  | ldSTVx (x : RegIdx)
  /-- `ADD I, Vx`, Fx1E -/
  | addIVx (x : RegIdx)
  /-- `LD F, Vx`, Fx29 -/
  | ldFVx (x : RegIdx)
  /-- `LD B, Vx`, Fx33 -/
  | ldBVx (x : RegIdx)
  /-- `LD [I], Vx`, Fx55 -/
  | storeRegs (x : RegIdx)
  /-- `LD Vx, [I]`, Fx65 -/
  | loadRegs (x : RegIdx)
  deriving DecidableEq, Repr

end Sys2Proof
end

