-- ==== Sys2Proof/WellFormed.lean ====
section
/-! DEFINITION. The checks on data that its type does not already make. An `Instr` needs none to be run: its operand
types hold exactly the values of 30_encoding.md R73, and every value of every field is legal (60_exceptions.md R185).
What can be ill-formed is an instruction as assembler text (R83), an image to load (70_reset_and_hazards.md R221) and
a duration (60_exceptions.md R192). -/

namespace Sys2Proof

/-- Whether the assembler syntax of 30_encoding.md R83 can write the instruction: `SHR Vx` and `SHL Vx` are written
with one operand and their `y` field is then 0. A decoder meets the other forms too, and they run all the same. -/
def Instr.assembled : Instr → Bool
  | .shr _ y => y == 0
  | .shl _ y => y == 0
  | .cls | .ret | .jp _ | .call _ | .seImm _ _ | .sneImm _ _ | .seReg _ _ | .ldImm _ _ | .addImm _ _
  | .ldReg _ _ | .orReg _ _ | .andReg _ _ | .xorReg _ _ | .addReg _ _ | .subReg _ _ | .subnReg _ _
  | .sneReg _ _ | .ldI _ | .jpV0 _ | .rnd _ _ | .drw _ _ _ | .skp _ | .sknp _ | .ldVxDT _ | .ldVxK _
  | .ldDTVx _ | .ldSTVx _ | .addIVx _ | .ldFVx _ | .ldBVx _ | .storeRegs _ | .loadRegs _ => true

/-- Whether an image fits the memory from `PROG_BASE` up (70_reset_and_hazards.md R221). -/
def imageFits (bytes : List Byte) : Bool := decide (bytes.length ≤ Config.maxImage)

/-- A duration of `num / den` seconds, exactly (60_exceptions.md R192 gives no unit but seconds). -/
structure Duration where
  num : Nat
  den : Nat
  deriving DecidableEq, Repr

/-- A duration is a number only when its denominator is not zero. -/
def Duration.wf (d : Duration) : Bool := d.den != 0

end Sys2Proof
end

