-- ==== Sys2Proof/Decode.lean ====
section
/-! DEFINITION. Decode and encode (30_encoding.md R70 to R81). The opcode map is a list of rows with a match and a
mask, as the spec's own table; a word that selects no row is unknown. -/

namespace Sys2Proof

/-! ## Fields of the word (R72, R73) -/

/-- `x = w[11:8]`. -/
def fieldX (w : Word) : RegIdx := Fin.ofNat 16 (w.extractLsb 11 8).toNat

/-- `y = w[7:4]`. -/
def fieldY (w : Word) : RegIdx := Fin.ofNat 16 (w.extractLsb 7 4).toNat

/-- `n = w[3:0]`. -/
def fieldN (w : Word) : Fin 16 := Fin.ofNat 16 (w.extractLsb 3 0).toNat

/-- `nn = w[7:0]`. -/
def fieldNN (w : Word) : Byte := w.extractLsb 7 0

/-- `nnn = w[11:0]`. -/
def fieldNNN (w : Word) : Addr := w.extractLsb 11 0

/-! ## The opcode map (R75, R76) -/

/-- One row of the opcode map: the words it selects, and the instruction such a word is. -/
structure Row where
  mnemonic : String
  pattern : Word
  mask : Word
  build : Word → Instr

/-- A word selects a row when `(w & mask) = match` (R75). -/
def Row.selects (r : Row) (w : Word) : Bool := w &&& r.mask == r.pattern

/-- Rows 1 to 9 of R76: formats Z, A, I and 5xy0. -/
def rowsLow : List Row := [
  ⟨"CLS", 0x00E0, 0xFFFF, fun _ => .cls⟩,
  ⟨"RET", 0x00EE, 0xFFFF, fun _ => .ret⟩,
  ⟨"JP_nnn", 0x1000, 0xF000, fun w => .jp (fieldNNN w)⟩,
  ⟨"CALL_nnn", 0x2000, 0xF000, fun w => .call (fieldNNN w)⟩,
  ⟨"SE_Vx__nn", 0x3000, 0xF000, fun w => .seImm (fieldX w) (fieldNN w)⟩,
  ⟨"SNE_Vx__nn", 0x4000, 0xF000, fun w => .sneImm (fieldX w) (fieldNN w)⟩,
  ⟨"SE_Vx__Vy", 0x5000, 0xF00F, fun w => .seReg (fieldX w) (fieldY w)⟩,
  ⟨"LD_Vx__nn", 0x6000, 0xF000, fun w => .ldImm (fieldX w) (fieldNN w)⟩,
  ⟨"ADD_Vx__nn", 0x7000, 0xF000, fun w => .addImm (fieldX w) (fieldNN w)⟩]

/-- Rows 10 to 19 of R76: format R with major opcode 8, and 9xy0. -/
def rowsReg : List Row := [
  ⟨"LD_Vx__Vy", 0x8000, 0xF00F, fun w => .ldReg (fieldX w) (fieldY w)⟩,
  ⟨"OR_Vx__Vy", 0x8001, 0xF00F, fun w => .orReg (fieldX w) (fieldY w)⟩,
  ⟨"AND_Vx__Vy", 0x8002, 0xF00F, fun w => .andReg (fieldX w) (fieldY w)⟩,
  ⟨"XOR_Vx__Vy", 0x8003, 0xF00F, fun w => .xorReg (fieldX w) (fieldY w)⟩,
  ⟨"ADD_Vx__Vy", 0x8004, 0xF00F, fun w => .addReg (fieldX w) (fieldY w)⟩,
  ⟨"SUB_Vx__Vy", 0x8005, 0xF00F, fun w => .subReg (fieldX w) (fieldY w)⟩,
  ⟨"SHR_Vx", 0x8006, 0xF00F, fun w => .shr (fieldX w) (fieldY w)⟩,
  ⟨"SUBN_Vx__Vy", 0x8007, 0xF00F, fun w => .subnReg (fieldX w) (fieldY w)⟩,
  ⟨"SHL_Vx", 0x800E, 0xF00F, fun w => .shl (fieldX w) (fieldY w)⟩,
  ⟨"SNE_Vx__Vy", 0x9000, 0xF00F, fun w => .sneReg (fieldX w) (fieldY w)⟩]

/-- Rows 20 to 34 of R76: Annn, Bnnn, Cxnn, Dxyn and format X. -/
def rowsHigh : List Row := [
  ⟨"LD_I__nnn", 0xA000, 0xF000, fun w => .ldI (fieldNNN w)⟩,
  ⟨"JP_V0__nnn", 0xB000, 0xF000, fun w => .jpV0 (fieldNNN w)⟩,
  ⟨"RND_Vx__nn", 0xC000, 0xF000, fun w => .rnd (fieldX w) (fieldNN w)⟩,
  ⟨"DRW_Vx__Vy__n", 0xD000, 0xF000, fun w => .drw (fieldX w) (fieldY w) (fieldN w)⟩,
  ⟨"SKP_Vx", 0xE09E, 0xF0FF, fun w => .skp (fieldX w)⟩,
  ⟨"SKNP_Vx", 0xE0A1, 0xF0FF, fun w => .sknp (fieldX w)⟩,
  ⟨"LD_Vx__DT", 0xF007, 0xF0FF, fun w => .ldVxDT (fieldX w)⟩,
  ⟨"LD_Vx__K", 0xF00A, 0xF0FF, fun w => .ldVxK (fieldX w)⟩,
  ⟨"LD_DT__Vx", 0xF015, 0xF0FF, fun w => .ldDTVx (fieldX w)⟩,
  ⟨"LD_ST__Vx", 0xF018, 0xF0FF, fun w => .ldSTVx (fieldX w)⟩,
  ⟨"ADD_I__Vx", 0xF01E, 0xF0FF, fun w => .addIVx (fieldX w)⟩,
  ⟨"LD_F__Vx", 0xF029, 0xF0FF, fun w => .ldFVx (fieldX w)⟩,
  ⟨"LD_B__Vx", 0xF033, 0xF0FF, fun w => .ldBVx (fieldX w)⟩,
  ⟨"LD__I___Vx", 0xF055, 0xF0FF, fun w => .storeRegs (fieldX w)⟩,
  ⟨"LD_Vx___I", 0xF065, 0xF0FF, fun w => .loadRegs (fieldX w)⟩]

/-- The opcode map, in the order of R76. The rows are disjoint, so their order decides nothing (R75). -/
def rows : List Row := rowsLow ++ rowsReg ++ rowsHigh

/-- The row a word selects. -/
def rowOf (w : Word) : Option Row := rows.find? (Row.selects · w)

/-- Decode reads nothing but the word (R75); `none` is the spec's `unknown` (R79). -/
def decode (w : Word) : Option Instr := (rowOf w).map (Row.build · w)

/-! ## Bytes (R70, R71) -/

/-- The word of two fetched bytes: the byte at the lower address is the more significant (20_memory.md R54). -/
def wordOfBytes (hi lo : Byte) : Word := hi ++ lo

/-- Why bytes are no instruction. -/
inductive DecodeError where
  /-- fewer than the two bytes every instruction has (R70) -/
  | truncated
  /-- the word selects no row of the opcode map (R79) -/
  | unknown (w : Word)
  deriving DecidableEq, Repr

/-- Decode the first instruction of a byte sequence, and answer the bytes after it. -/
def decodeBytes : List Byte → Except DecodeError (Instr × List Byte)
  | hi :: lo :: rest =>
    match decode (wordOfBytes hi lo) with
    | some i => .ok (i, rest)
    | none => .error (.unknown (wordOfBytes hi lo))
  | _ => .error .truncated

/-- The high and the low byte of a word, as an instruction's two bytes lie in memory (20_memory.md R54). -/
def bytesOfWord (w : Word) : List Byte := [w.extractLsb 15 8, w.extractLsb 7 0]

/-! ## Encode (R74) -/

/-- Format A: `op`, then `nnn`. -/
def encodeA (op : Nat) (nnn : Addr) : Word := BitVec.ofNat 16 (op * 0x1000 + nnn.toNat)

/-- Format I: `op`, `x`, then `nn`. -/
def encodeI (op : Nat) (x : RegIdx) (nn : Byte) : Word := BitVec.ofNat 16 (op * 0x1000 + x.val * 0x100 + nn.toNat)

/-- Formats R and D: `op`, `x`, `y`, then the last nibble. -/
def encodeR (op : Nat) (x y : RegIdx) (n : Fin 16) : Word :=
  BitVec.ofNat 16 (op * 0x1000 + x.val * 0x100 + y.val * 0x10 + n.val)

/-- Format X: `op`, `x`, then the minor opcode. -/
def encodeX (op : Nat) (x : RegIdx) (minor : Nat) : Word := BitVec.ofNat 16 (op * 0x1000 + x.val * 0x100 + minor)

/-- The word of an instruction, from the patterns of R76. -/
def encode : Instr → Word
  | .cls => 0x00E0
  | .ret => 0x00EE
  | .jp nnn => encodeA 0x1 nnn
  | .call nnn => encodeA 0x2 nnn
  | .seImm x nn => encodeI 0x3 x nn
  | .sneImm x nn => encodeI 0x4 x nn
  | .seReg x y => encodeR 0x5 x y 0x0
  | .ldImm x nn => encodeI 0x6 x nn
  | .addImm x nn => encodeI 0x7 x nn
  | .ldReg x y => encodeR 0x8 x y 0x0
  | .orReg x y => encodeR 0x8 x y 0x1
  | .andReg x y => encodeR 0x8 x y 0x2
  | .xorReg x y => encodeR 0x8 x y 0x3
  | .addReg x y => encodeR 0x8 x y 0x4
  | .subReg x y => encodeR 0x8 x y 0x5
  | .shr x y => encodeR 0x8 x y 0x6
  | .subnReg x y => encodeR 0x8 x y 0x7
  | .shl x y => encodeR 0x8 x y 0xE
  | .sneReg x y => encodeR 0x9 x y 0x0
  | .ldI nnn => encodeA 0xA nnn
  | .jpV0 nnn => encodeA 0xB nnn
  | .rnd x nn => encodeI 0xC x nn
  | .drw x y n => encodeR 0xD x y n
  | .skp x => encodeX 0xE x 0x9E
  | .sknp x => encodeX 0xE x 0xA1
  | .ldVxDT x => encodeX 0xF x 0x07
  | .ldVxK x => encodeX 0xF x 0x0A
  | .ldDTVx x => encodeX 0xF x 0x15
  | .ldSTVx x => encodeX 0xF x 0x18
  | .addIVx x => encodeX 0xF x 0x1E
  | .ldFVx x => encodeX 0xF x 0x29
  | .ldBVx x => encodeX 0xF x 0x33
  | .storeRegs x => encodeX 0xF x 0x55
  | .loadRegs x => encodeX 0xF x 0x65

/-! ## The host's word -/

/-- The instruction word the host means by `nbits` table bits of `w`; every bit above them is 0. The table gives
each row one 16-bit word, numbered as the spec numbers it. -/
def tableWord (nbits w : Nat) : Word := BitVec.ofNat 16 (w % 2 ^ nbits)

/-- The instruction this decoder reads from the two bytes of that word as they lie in memory. -/
def decodeTableWord (nbits w : Nat) : Option Instr :=
  match decodeBytes (bytesOfWord (tableWord nbits w)) with
  | .ok (i, _) => some i
  | .error _ => none

end Sys2Proof
end

