-- ==== Sys2Proof/Machine/Defaults.lean ====
section
/-! DEFINITION. The default values of the launch parameters (00_scope.md R5). They stand under Machine/ so that a test
which shows one wrong can have it mended. -/

namespace Sys2Proof.Machine

/-- The default `FONT`, the table of 10_state.md R31, one glyph a line, top row first. PRESUMED by the spec itself
("from general knowledge, not in source"); unsafe for a claim about these bytes (log entry 4). -/
def defaultFont : Vector Byte 80 := #v[
  0xF0, 0x90, 0x90, 0x90, 0xF0,
  0x20, 0x60, 0x20, 0x20, 0x70,
  0xF0, 0x10, 0xF0, 0x80, 0xF0,
  0xF0, 0x10, 0xF0, 0x10, 0xF0,
  0x90, 0x90, 0xF0, 0x10, 0x10,
  0xF0, 0x80, 0xF0, 0x10, 0xF0,
  0xF0, 0x80, 0xF0, 0x90, 0xF0,
  0xF0, 0x10, 0x20, 0x40, 0x40,
  0xF0, 0x90, 0xF0, 0x90, 0xF0,
  0xF0, 0x90, 0xF0, 0x10, 0xF0,
  0xF0, 0x90, 0xF0, 0x90, 0x90,
  0xE0, 0x90, 0xE0, 0x90, 0xE0,
  0xF0, 0x80, 0x80, 0x80, 0xF0,
  0xE0, 0x90, 0x90, 0x90, 0xE0,
  0xF0, 0x80, 0xF0, 0x80, 0xF0,
  0xF0, 0x80, 0xF0, 0x80, 0x80]

/-- The default configuration: `strict_decode = false` (00_scope.md R5 (a), 90_conflicts.md C10) and the default
font (R5 (b)). `step` runs under it; `stepWith` runs under any. -/
def defaultConfig : Config := { strictDecode := false, font := defaultFont }

end Sys2Proof.Machine
end

