-- ==== Sys2Proof/Machine/State.lean ====
section
/-! DEFINITION. The state of the machine: exactly the components 10_state.md R20 lists, and one counter of the
model's own for the free value of `RND`. -/

namespace Sys2Proof.Machine

/-- The fault a halted machine stopped with (10_state.md R32): the three identifiers a Step can raise. -/
inductive HaltCause where
  /-- `CALL` with the stack full (60_exceptions.md R181) -/
  | stackOverflow
  /-- `RET` with the stack empty (R182) -/
  | stackUnderflow
  /-- an unknown word under `strict_decode` (R183) -/
  | unknownOpcode
  deriving DecidableEq, Repr

/-- The run state (10_state.md R32). -/
inductive Status where
  /-- a Step executes one instruction -/
  | running
  /-- a Step does nothing until a key arrives, which goes to register `r` -/
  | waitingForKey (r : RegIdx)
  /-- a Step does nothing; only Reset leaves this state -/
  | halted (cause : HaltCause)
  deriving DecidableEq, Repr

/-- Memory as the cells that differ from the reset contents (`resetByte` in Machine/Ops.lean), addresses rising. -/
abbrev Memory := List Host.Cell

/-- The pixel buffer: 32 rows, top first, of 64 one-bit cells, left first (10_state.md R28). -/
abbrev PixelBuffer := Vector (Vector Bool 64) 32

/-- The whole state of the machine (10_state.md R20). -/
structure State where
  /-- `mem`, 4096 bytes (20_memory.md R50) -/
  mem : Memory
  /-- `V[0..15]` (R21); `V[15]` is the flag VF (R22) -/
  v : Vector Byte 16
  /-- `I`, the address register (R23) -/
  i : Word
  /-- `pc` (R24) -/
  pc : Word
  /-- `stack[1..12]` (R25): slot `k` is entry `k - 1` -/
  stack : Vector Word 12
  /-- `sp`, 0 to 12, the number of return addresses held (R26) -/
  sp : Fin 13
  /-- `DT`, the delay timer (R27) -/
  dt : Byte
  /-- `ST`, the sound timer (R27) -/
  st : Byte
  /-- `px` (R28) -/
  px : PixelBuffer
  /-- `key`, the pending-key latch (R29) -/
  key : Option KeyCode
  /-- `redraw` (R30) -/
  redraw : Bool
  /-- `status` (R32) -/
  status : Status
  /-- NOT the spec's: how many bytes `RND` has drawn; the next one is `Config.drawByte draws` (log entry 1) -/
  draws : Nat
  deriving DecidableEq, Repr

/-- The spec's closed set of faults (60_exceptions.md R180). The first three are raised inside a Step, which answers
a NEXT state with `status = Halted` (R188); `exec` and `step` therefore never answer an outcome fault. Safe: each
stops where the spec stops. -/
inductive Fault where
  /-- raised by `CALL` (R181); reported in the reply to a Step. Safe. -/
  | stackOverflow
  /-- raised by `RET` (R182); reported in the reply to a Step. Safe. -/
  | stackUnderflow
  /-- raised by an unknown word under `strict_decode` (R183); reported in the reply to a Step. Safe. -/
  | unknownOpcode
  /-- answered by the host's `Load` of an image over 3584 bytes, which changes nothing (R184). Safe. -/
  | loadTooLarge
  deriving DecidableEq, Repr

/-- The fault a cause of `Halted` reports (60_exceptions.md R180, R188). -/
def HaltCause.toFault : HaltCause → Fault
  | .stackOverflow => .stackOverflow
  | .stackUnderflow => .stackUnderflow
  | .unknownOpcode => .unknownOpcode

/-- What the model gives no meaning to. No instruction is refused. -/
inductive Refusal where
  /-- an instruction with no meaning yet: raised only by an arm of `exec`; no arm is left that raises it. Safe. -/
  | notModelled (mnemonic : String)
  /-- raised by `Load` issued after the first Step or after a successful Load (70_reset_and_hazards.md R221: "a model
  refuses it"). Safe. -/
  | loadOutsideLaunch
  deriving DecidableEq, Repr

/-- What an instruction answers. -/
abbrev Result := Host.Outcome State Fault Refusal

/-- The state after Reset (10_state.md R36): memory at its reset contents, so nothing listed. Every value is the
spec's but `draws`, the model's own field (log entry 1). -/
def State.reset : State where
  mem := []
  v := Vector.replicate 16 0
  i := 0
  pc := 0x0200
  stack := Vector.replicate 12 0
  sp := 0
  dt := 0
  st := 0
  px := Vector.replicate 32 (Vector.replicate 64 false)
  key := none
  redraw := false
  status := .running
  draws := 0

end Sys2Proof.Machine
end

