-- ==== Sys2Proof/Machine/Ops.lean ====
section
/-! DEFINITION. The named operations over memory, registers and the other components, and taking a fault
(60_exceptions.md R188). Every meaning is written over these. -/

namespace Sys2Proof.Machine

/-! ## Memory (20_memory.md) -/

/-- What an unlisted address reads as: the reset contents, the font table at 0x000..0x04F and 0 above it
(10_state.md R36). -/
def resetByte (a : Nat) : Byte := if h : a < 80 then defaultFont[a] else 0

/-- The listed byte of an address, if it is listed. -/
def Memory.lookup : Memory → Nat → Option Byte
  | [], _ => none
  | (k, b) :: m, a => if k = a then some b else Memory.lookup m a

/-- The byte at an address. -/
def Memory.read (m : Memory) (a : Nat) : Byte := (Memory.lookup m a).getD (resetByte a)

/-- List a byte at its place in the rising order, in place of an earlier one. -/
def Memory.insert (a : Nat) (b : Byte) : Memory → Memory
  | [] => [(a, b)]
  | (k, c) :: m =>
    if a < k then (a, b) :: (k, c) :: m
    else if a = k then (a, b) :: m
    else (k, c) :: Memory.insert a b m

/-- List nothing at an address. -/
def Memory.erase (a : Nat) (m : Memory) : Memory := m.filter fun p => p.1 ≠ a

/-- Store a byte, keeping the canonical form: a byte equal to the reset contents is not listed. -/
def Memory.write (m : Memory) (a : Nat) (b : Byte) : Memory :=
  if b = resetByte a then Memory.erase a m else Memory.insert a b m

/-- The canonical form: addresses rise strictly, each is below 4096, and no listed byte is the reset one. -/
abbrev Memory.wf (m : Memory) : Prop :=
  m.Pairwise (fun p q => p.1 < q.1) ∧ ∀ p ∈ m, p.1 < 4096 ∧ p.2 ≠ resetByte p.1

/-- The reduction of an effective address (R52): every access uses `ea mod 4096`. -/
def effAddr (ea : Nat) : Nat := ea % Config.memSize

/-- `MemRead(ea, 1)` (R53). -/
def State.memRead (s : State) (ea : Nat) : Byte := s.mem.read (effAddr ea)

/-- `MemWrite(ea, 1, b)` (R53). -/
def State.memWrite (s : State) (ea : Nat) (b : Byte) : State := { s with mem := s.mem.write (effAddr ea) b }

/-- Store the bytes at rising addresses from `ea` on. -/
def State.memWriteBytes (s : State) (ea : Nat) : List Byte → State
  | [] => s
  | b :: bs => (s.memWrite ea b).memWriteBytes (ea + 1) bs

/-- `MemRead(pc, 2)`, the word at `pc` (30_encoding.md R71): no side effect, no fault. -/
def State.fetchWord (s : State) : Word := wordOfBytes (s.memRead s.pc.toNat) (s.memRead (s.pc.toNat + 1))

/-! ## Registers and the other components (10_state.md) -/

/-- Read `V[x]` (R21). -/
def State.reg (s : State) (x : RegIdx) : Byte := s.v[x.val]

/-- Write `V[x]` (R21). -/
def State.setReg (s : State) (x : RegIdx) (b : Byte) : State := { s with v := s.v.set x.val b }

/-- Write `I` (R23). -/
def State.setI (s : State) (a : Word) : State := { s with i := a }

/-- Write `pc` (R24). -/
def State.setPc (s : State) (a : Word) : State := { s with pc := a }

/-- `pc <- pc + 2 mod 65536`, the end of every instruction that is no branch (40_control_flow.md R108). -/
def State.advance (s : State) : State := s.setPc (s.pc + 2)

/-- The end of a skip instruction: `pc + 4` if its condition holds, else `pc + 2` (R108). -/
def State.skipIf (s : State) (c : Bool) : State := s.setPc (s.pc + if c then 4 else 2)

/-- Write `DT` (R27). -/
def State.setDT (s : State) (b : Byte) : State := { s with dt := b }

/-- Write `ST` (R27). -/
def State.setST (s : State) (b : Byte) : State := { s with st := b }

/-- Write the pixel buffer (R28). -/
def State.setPx (s : State) (p : PixelBuffer) : State := { s with px := p }

/-- Write the key latch (R29). -/
def State.setKey (s : State) (k : Option KeyCode) : State := { s with key := k }

/-- Write the redraw flag (R30). -/
def State.setRedraw (s : State) (b : Bool) : State := { s with redraw := b }

/-- Write the run state (R32). -/
def State.setStatus (s : State) (t : Status) : State := { s with status := t }

/-- `draw_byte()`: the byte drawn (00_scope.md R8). -/
def State.drawnByte (s : State) : Byte := Config.drawByte s.draws

/-- `draw_byte()`: the next draw is another one. -/
def State.nextDraw (s : State) : State := { s with draws := s.draws + 1 }

/-! ## The return stack (10_state.md R25, R26) -/

/-- Slot `k` of `stack[1..12]`. -/
def State.slot (s : State) (k : Nat) (h : 1 ≤ k ∧ k ≤ 12) : Word := s.stack[k - 1]

/-- Push: `sp <- sp + 1`, then `stack[sp] <- a`. -/
def State.push (s : State) (a : Word) (h : s.sp.val < 12) : State :=
  { s with sp := ⟨s.sp.val + 1, by omega⟩, stack := s.stack.set s.sp.val a }

/-- Pop: `stack[sp]` is read, then `sp <- sp - 1`; the slot keeps its content. -/
def State.pop (s : State) (h : s.sp.val ≠ 0) : Word × State :=
  (s.slot s.sp.val ⟨by omega, by omega⟩, { s with sp := ⟨s.sp.val - 1, by omega⟩ })

/-! ## Taking a fault (60_exceptions.md R188), and leaving one (R189) -/

/-- `raise F`: nothing changes but `status <- Halted(F)`; `pc` stays at the faulting instruction. There is no handler
and nothing is saved. -/
def State.raiseFault (s : State) (c : HaltCause) : State := s.setStatus (.halted c)

/-- There is no return from a fault but Reset, which discards the whole state (R189, 70_reset_and_hazards.md R220).
Only the model's own draw counter runs on, so that later draws are fresh ones (log entry 7). -/
def State.leaveByReset (s : State) : State := { State.reset with draws := s.draws }

end Sys2Proof.Machine
end

