-- ==== Sys2Proof/Machine/Flags.lean ====
section
/-! DEFINITION. The values written to VF as a flag (10_state.md R22, 41_alu.md R132): each is exactly 0 or 1. -/

namespace Sys2Proof.Machine

/-- A condition as a flag value. -/
def flagOf (c : Bool) : Byte := if c then 1 else 0

/-- The carry of `a + b`: 1 if the sum exceeds 255 (R126). -/
def carryFlag (a b : Byte) : Byte := flagOf (decide (a.toNat + b.toNat > 255))

/-- No borrow of `a - b`: 1 if `a >= b`, equality included (R127, R129). -/
def noBorrowFlag (a b : Byte) : Byte := flagOf (decide (a.toNat ≥ b.toNat))

/-- The bit a right shift moves out: bit 0 (R128). -/
def lowBitFlag (a : Byte) : Byte := flagOf (a.getLsbD 0)

/-- The bit a left shift moves out: bit 7, as 0 or 1 and never 0x80 (R130). -/
def highBitFlag (a : Byte) : Byte := flagOf (a.getLsbD 7)

/-- A collision of a draw: 1 if a set pixel became unset (43_display.md R151). -/
def collisionFlag (hit : Bool) : Byte := flagOf hit

end Sys2Proof.Machine
end

