-- ==== Sys2Proof/Machine/Operands.lean ====
section
/-! DEFINITION. The operand forms: immediates widened to 16 bits (30_encoding.md R73), the bytes at `I + k`
(42_address_memory.md R146), the two ways an instruction writes its destination register (41_alu.md R133), the key
comparison (44_keys_timers.md R160), and the digits and glyph address of a register (R142, R143). -/

namespace Sys2Proof.Machine

/-- `zext_16(nnn)` (R73). -/
def addrWord (nnn : Addr) : Word := nnn.zeroExtend 16

/-- `zext_16(b)` of a register's value. -/
def byteWord (b : Byte) : Word := b.zeroExtend 16

/-- The unreduced address of the `k`-th byte at `I` (R146); the access reduces it (20_memory.md R52). -/
def State.dataAddr (s : State) (k : Nat) : Nat := s.i.toNat + k

/-- The `k`-th byte at `I`. -/
def State.dataRead (s : State) (k : Nat) : Byte := s.memRead (s.dataAddr k)

/-- Store the `k`-th byte at `I`; `I` is unchanged (R146). -/
def State.dataWrite (s : State) (k : Nat) (b : Byte) : State := s.memWrite (s.dataAddr k) b

/-- Write a result to `V[x]` with no flag, and advance. -/
def State.result (s : State) (x : RegIdx) (r : Byte) : State := (s.setReg x r).advance

/-- Write a result to `V[x]`, THEN the flag to VF, and advance: with `x = 15` the flag wins (R133). -/
def State.resultAndFlag (s : State) (x : RegIdx) (r f : Byte) : State := ((s.setReg x r).setReg vf f).advance

/-- Whether the pending key is the one whose code is the whole 8-bit value `b` (R160). -/
def State.keyIs (s : State) (b : Byte) : Bool :=
  match s.key with
  | some k => k.val == b.toNat
  | none => false

/-- `zext_8` of a key code (R163, 60_exceptions.md R193). -/
def keyByte (k : KeyCode) : Byte := BitVec.ofNat 8 k.val

/-- The address of the glyph of a register's low nibble: `FONT_BASE + 5 * (b & 0x0F)` with `FONT_BASE` = 0 (R142). -/
def glyphAddr (b : Byte) : Word := BitVec.ofNat 16 (Config.glyphBytes * (b &&& 0x0F).toNat)

/-- The hundreds digit of a byte (R143). -/
def hundredsDigit (b : Byte) : Byte := BitVec.ofNat 8 (b.toNat / 100)

/-- The tens digit of a byte (R143). -/
def tensDigit (b : Byte) : Byte := BitVec.ofNat 8 (b.toNat / 10 % 10)

/-- The ones digit of a byte (R143). -/
def onesDigit (b : Byte) : Byte := BitVec.ofNat 8 (b.toNat % 10)

/-- `for i from 0 to k - 1: MemWrite(I + i, 1, V[i])`, in that order (R144). -/
def State.storeBlock : Nat → State → State
  | 0, s => s
  | k + 1, s => (State.storeBlock k s).dataWrite k (s.reg (Fin.ofNat 16 k))

/-- `for i from 0 to k - 1: V[i] <- MemRead(I + i, 1)`, in that order (R145). -/
def State.loadBlock : Nat → State → State
  | 0, s => s
  | k + 1, s => (State.loadBlock k s).setReg (Fin.ofNat 16 k) (s.dataRead k)

end Sys2Proof.Machine
end

