-- ==== Sys2Proof/Machine/Address.lean ====
section
/-! DEFINITION. Address-register and memory instructions (42_address_memory.md). `I` is written by the first three
only (R146). -/

namespace Sys2Proof.Machine

/-- `LD I, nnn` (R140). -/
def execLdI (nnn : Addr) (s : State) : Result := .next (s.setI (addrWord nnn)).advance

/-- `ADD I, Vx` (R141): wraps at 16 bits, writes no flag. -/
def execAddIVx (x : RegIdx) (s : State) : Result := .next (s.setI (s.i + byteWord (s.reg x))).advance

/-- `LD F, Vx` (R142). -/
def execLdFVx (x : RegIdx) (s : State) : Result := .next (s.setI (glyphAddr (s.reg x))).advance

/-- `LD B, Vx` (R143): hundreds, tens and ones at `I`, `I+1`, `I+2`. -/
def execLdBVx (x : RegIdx) (s : State) : Result :=
  .next (((s.dataWrite 0 (hundredsDigit (s.reg x))).dataWrite 1 (tensDigit (s.reg x))).dataWrite 2
    (onesDigit (s.reg x))).advance

/-- `LD [I], Vx` (R144): `V[0]` to `V[x]`, inclusive. -/
def execStoreRegs (x : RegIdx) (s : State) : Result := .next (s.storeBlock (x.val + 1)).advance

/-- `LD Vx, [I]` (R145): `V[0]` to `V[x]`, inclusive. -/
def execLoadRegs (x : RegIdx) (s : State) : Result := .next (s.loadBlock (x.val + 1)).advance

end Sys2Proof.Machine
end

