-- ==== Sys2Proof/Machine/Alu.lean ====
section
/-! DEFINITION. Register, arithmetic, logic and random instructions (41_alu.md). Operands are read before any write,
the result is written before the flag (R133). -/

namespace Sys2Proof.Machine

/-- `LD Vx, nn` (R120). -/
def execLdImm (x : RegIdx) (nn : Byte) (s : State) : Result := .next (s.result x nn)

/-- `ADD Vx, nn` (R121): wraps, writes no flag. -/
def execAddImm (x : RegIdx) (nn : Byte) (s : State) : Result := .next (s.result x (s.reg x + nn))

/-- `LD Vx, Vy` (R122). -/
def execLdReg (x y : RegIdx) (s : State) : Result := .next (s.result x (s.reg y))

/-- `OR Vx, Vy` (R123): VF keeps its value. -/
def execOrReg (x y : RegIdx) (s : State) : Result := .next (s.result x (s.reg x ||| s.reg y))

/-- `AND Vx, Vy` (R124): VF keeps its value. -/
def execAndReg (x y : RegIdx) (s : State) : Result := .next (s.result x (s.reg x &&& s.reg y))

/-- `XOR Vx, Vy` (R125): VF keeps its value. -/
def execXorReg (x y : RegIdx) (s : State) : Result := .next (s.result x (s.reg x ^^^ s.reg y))

/-- `ADD Vx, Vy` (R126). -/
def execAddReg (x y : RegIdx) (s : State) : Result :=
  .next (s.resultAndFlag x (s.reg x + s.reg y) (carryFlag (s.reg x) (s.reg y)))

/-- `SUB Vx, Vy` (R127). -/
def execSubReg (x y : RegIdx) (s : State) : Result :=
  .next (s.resultAndFlag x (s.reg x - s.reg y) (noBorrowFlag (s.reg x) (s.reg y)))

/-- `SHR Vx` (R128): `V[x]` in place; `y` is ignored. -/
def execShr (x _y : RegIdx) (s : State) : Result :=
  .next (s.resultAndFlag x (s.reg x >>> 1) (lowBitFlag (s.reg x)))

/-- `SUBN Vx, Vy` (R129): `y` minus `x`, into `V[x]`. -/
def execSubnReg (x y : RegIdx) (s : State) : Result :=
  .next (s.resultAndFlag x (s.reg y - s.reg x) (noBorrowFlag (s.reg y) (s.reg x)))

/-- `SHL Vx` (R130): `V[x]` in place; `y` is ignored. -/
def execShl (x _y : RegIdx) (s : State) : Result :=
  .next (s.resultAndFlag x (s.reg x <<< 1) (highBitFlag (s.reg x)))

/-- The value `RND` stores for a drawn byte (R131). -/
def rndValue (drawn nn : Byte) : Byte := drawn &&& nn

/-- `RND Vx, nn` (R131): one free byte is drawn (log entry 1). -/
def execRnd (x : RegIdx) (nn : Byte) (s : State) : Result := .next (s.nextDraw.result x (rndValue s.drawnByte nn))

end Sys2Proof.Machine
end

