-- ==== Sys2Proof/Machine/Control.lean ====
section
/-! DEFINITION. Control-flow instructions (40_control_flow.md). None writes a register, VF or memory (R109). -/

namespace Sys2Proof.Machine

/-- `RET` (R100): with the stack empty, StackUnderflow and no other change (60_exceptions.md R182). -/
def execRet (s : State) : Result :=
  if h : s.sp.val ≠ 0 then .next ((s.pop h).2.setPc (s.pop h).1) else .next (s.raiseFault .stackUnderflow)

/-- `JP nnn` (R101). -/
def execJp (nnn : Addr) (s : State) : Result := .next (s.setPc (addrWord nnn))

/-- `CALL nnn` (R102): pushes the address of the next instruction; with the stack full, StackOverflow and no other
change (60_exceptions.md R181). -/
def execCall (nnn : Addr) (s : State) : Result :=
  if h : s.sp.val < 12 then .next ((s.push (s.pc + 2) h).setPc (addrWord nnn))
  else .next (s.raiseFault .stackOverflow)

/-- `SE Vx, nn` (R103). -/
def execSeImm (x : RegIdx) (nn : Byte) (s : State) : Result := .next (s.skipIf (s.reg x == nn))

/-- `SNE Vx, nn` (R104). -/
def execSneImm (x : RegIdx) (nn : Byte) (s : State) : Result := .next (s.skipIf (s.reg x != nn))

/-- `SE Vx, Vy` (R105). -/
def execSeReg (x y : RegIdx) (s : State) : Result := .next (s.skipIf (s.reg x == s.reg y))

/-- `SNE Vx, Vy` (R106). -/
def execSneReg (x y : RegIdx) (s : State) : Result := .next (s.skipIf (s.reg x != s.reg y))

/-- `JP V0, nnn` (R107): the sum is not reduced to 12 bits. -/
def execJpV0 (nnn : Addr) (s : State) : Result := .next (s.setPc (byteWord (s.reg 0) + addrWord nnn))

end Sys2Proof.Machine
end

