-- ==== Sys2Proof/Machine/Display.lean ====
section
/-! DEFINITION. The display instructions and the sprite drawing engine (43_display.md): R151's loops over rows and
bits, one pixel at a time. -/

namespace Sys2Proof.Machine

/-- `px[r][c]`. -/
def pixelAt (p : PixelBuffer) (r : Fin 32) (c : Fin 64) : Bool := p[r.val][c.val]

/-- `px[r][c] <- px[r][c] ^ 1`. -/
def togglePixel (p : PixelBuffer) (r : Fin 32) (c : Fin 64) : PixelBuffer :=
  p.set r.val (p[r.val].set c.val (!pixelAt p r c))

/-- The buffer with every cell 0 (R150). -/
def blankPixels : PixelBuffer := Vector.replicate 32 (Vector.replicate 64 false)

/-- `s <- b[7 - bit]`: bit 0 of the loop is the MOST significant bit of the sprite byte (R151). -/
def spriteBit (b : Byte) (bit : Nat) : Bool := b.getLsbD (7 - bit)

/-- `r <- (y0 + row) mod 32`. -/
def spriteRow (y0 : Byte) (row : Nat) : Fin 32 := Fin.ofNat 32 (y0.toNat + row)

/-- `c <- (x0 + bit) mod 64`. -/
def spriteCol (x0 : Byte) (bit : Nat) : Fin 64 := Fin.ofNat 64 (x0.toNat + bit)

/-- One pass of the inner loop: XOR one sprite bit, noting a collision. The pair is the buffer and whether a
collision has happened; the latter is only ever set. -/
def drawBit (b x0 : Byte) (r : Fin 32) (bit : Nat) : PixelBuffer × Bool → PixelBuffer × Bool
  | (p, hit) =>
    if spriteBit b bit then
      (togglePixel p r (spriteCol x0 bit), hit || pixelAt p r (spriteCol x0 bit))
    else (p, hit)

/-- `for bit from 0 to k - 1`. -/
def drawBits (b x0 : Byte) (r : Fin 32) : Nat → PixelBuffer × Bool → PixelBuffer × Bool
  | 0, acc => acc
  | k + 1, acc => drawBit b x0 r k (drawBits b x0 r k acc)

/-- `for row from 0 to k - 1`, the sprite's rows read from `I + row`. -/
def State.drawRows (s : State) (x0 y0 : Byte) : Nat → PixelBuffer × Bool → PixelBuffer × Bool
  | 0, acc => acc
  | k + 1, acc => drawBits (s.dataRead k) x0 (spriteRow y0 k) 8 (State.drawRows s x0 y0 k acc)

/-- The buffer and the collision of a sprite of `n` rows at column `x0`, row `y0`. -/
def State.drawSprite (s : State) (x0 y0 : Byte) (n : Nat) : PixelBuffer × Bool := s.drawRows x0 y0 n (s.px, false)

/-- `CLS` (R150): `redraw` is set even when nothing changed. -/
def execCls (s : State) : Result := .next ((s.setPx blankPixels).setRedraw true).advance

/-- `DRW Vx, Vy, n` (R151): both coordinates are read before VF is written. -/
def execDrw (x y : RegIdx) (n : Fin 16) (s : State) : Result :=
  .next (((s.setPx (s.drawSprite (s.reg x) (s.reg y) n.val).1).setReg vf
    (collisionFlag (s.drawSprite (s.reg x) (s.reg y) n.val).2)).setRedraw true).advance

end Sys2Proof.Machine
end

