-- ==== Sys2Proof/Machine/KeysTimers.lean ====
section
/-! DEFINITION. Key and timer instructions (44_keys_timers.md). -/

namespace Sys2Proof.Machine

/-- `SKP Vx` (R160). -/
def execSkp (x : RegIdx) (s : State) : Result := .next (s.skipIf (s.keyIs (s.reg x)))

/-- `SKNP Vx` (R161): the exact complement of `SKP`. -/
def execSknp (x : RegIdx) (s : State) : Result := .next (s.skipIf (!s.keyIs (s.reg x)))

/-- `LD Vx, DT` (R162). -/
def execLdVxDT (x : RegIdx) (s : State) : Result := .next (s.result x s.dt)

/-- `LD Vx, K` (R163): always enters the wait, whatever `key` holds; the key is stored by `setInput`. -/
def execLdVxK (x : RegIdx) (s : State) : Result := .next (s.setStatus (.waitingForKey x)).advance

/-- `LD DT, Vx` (R164). -/
def execLdDTVx (x : RegIdx) (s : State) : Result := .next (s.setDT (s.reg x)).advance

/-- `LD ST, Vx` (R165). -/
def execLdSTVx (x : RegIdx) (s : State) : Result := .next (s.setST (s.reg x)).advance

end Sys2Proof.Machine
end

