-- ==== Sys2Proof/Machine/Idle.lean ====
section
/-! DEFINITION. The parts of a Step that run no instruction (30_encoding.md R80, R84), kept here so that Step.lean
only calls them. -/

namespace Sys2Proof.Machine

/-- The instruction at `pc`, or `none` for an unknown word (R71, R75). -/
def State.fetchInstr (s : State) : Option Instr := decode s.fetchWord

/-- A Step of an unknown word (R80): a no-op that advances `pc` by 2, or the UnknownOpcode fault under
`strict_decode` (60_exceptions.md R183). -/
def execUnknown (cfg : Config) (s : State) : Result :=
  if cfg.strictDecode then .next (s.raiseFault .unknownOpcode) else .next s.advance

/-- A Step while waiting for a key: no state change (R84, 60_exceptions.md R199). -/
def stepWaiting (s : State) : Result := .next s

/-- A Step while halted: no state change; the reply is the stored cause (R84, R189). -/
def stepHalted (s : State) : Result := .next s

/-- The state in which the next Step fetches the word `w`: its two bytes at `pc` and `pc + 1`, and the machine
running (log entry 5). -/
def State.placeWord (s : State) (w : Word) : State :=
  (s.memWriteBytes s.pc.toNat (bytesOfWord w)).setStatus .running

end Sys2Proof.Machine
end

