-- ==== Sys2Proof/Machine/Step.lean ====
section
/-! DEFINITION. The Step transaction (30_encoding.md R84). -/

namespace Sys2Proof.Machine

/-- `Step()` under a configuration: one instruction if Running, nothing otherwise. -/
def stepWith (cfg : Config) (s : State) : Host.Outcome State Fault Refusal :=
  match s.status with
  | .running =>
    match s.fetchInstr with
    | some i => exec i s
    | none => execUnknown cfg s
  | .waitingForKey _ => stepWaiting s
  | .halted _ => stepHalted s

/-- `Step()` under the default configuration (00_scope.md R5). -/
def step (s : State) : Host.Outcome State Fault Refusal := stepWith defaultConfig s

/-- The state whose very next step runs the instruction word the host means (log entry 5). -/
def State.withFetchWord (s : State) (nbits w : Nat) : State := s.placeWord (tableWord nbits w)

end Sys2Proof.Machine
end

