-- ==== Sys2Proof/Machine/Transactions.lean ====
section
/-! DEFINITION. The host's transactions (60_exceptions.md R191 to R197 and R202, 70_reset_and_hazards.md R220 to
R222). Each is one atomic step of an agent other than the program; `Session` serialises them in any order. -/

namespace Sys2Proof.Machine

/-! ## Reset and Load -/

/-- The reset state under a configuration's `FONT` (10_state.md R31, R36). -/
def State.resetWith (cfg : Config) : State := State.reset.memWriteBytes 0 cfg.font.toList

/-- `Reset` (70_reset_and_hazards.md R220): nothing of the machine survives it. Only the model's own draw counter
runs on (log entry 7). -/
def resetMachine (cfg : Config) (s : State) : State :=
  s.leaveByReset.memWriteBytes 0 cfg.font.toList

/-- `Load(bytes)` (R221): the image from 0x200 up, or LoadTooLarge with nothing changed (60_exceptions.md R184). -/
def loadImage (bytes : List Byte) (s : State) : Result :=
  if imageFits bytes then .next (s.memWriteBytes Config.progBase bytes) else .fault .loadTooLarge

/-! ## Timers, input and output -/

/-- A timer after one 1/60 s step: never below 0 (R191). -/
def timerTick (t : Byte) : Byte := if t = 0 then 0 else t - 1

/-- `Tick()` (R191): the same in every status. -/
def tick (s : State) : State := (s.setDT (timerTick s.dt)).setST (timerTick s.st)

/-- `k` Ticks. -/
def ticks : Nat → State → State
  | 0, s => s
  | k + 1, s => tick (ticks k s)

/-- `floor(elapsed * 60)`, the whole 1/60 s steps in a duration; no remainder is kept (R192). -/
def wholeTicks (elapsed : Duration) : Nat := elapsed.num * Config.timerHz / elapsed.den

/-- `TickTimers(elapsed)` (R192). -/
def tickTimers (elapsed : Duration) (s : State) : State := ticks (wholeTicks elapsed) s

/-- `SetInput(k)` (R193): updates the latch and, with a key, ends a wait. It never changes `pc`. -/
def setInput (k : Option KeyCode) (s : State) : State :=
  match s.status, k with
  | .waitingForKey r, some c => ((s.setKey k).setReg r (keyByte c)).setStatus .running
  | _, _ => s.setKey k

/-- `ExportFrame()` (R194): the pixels, the flag, and the state with the flag cleared. -/
def exportFrame (s : State) : (PixelBuffer × Bool) × State := ((s.px, s.redraw), s.setRedraw false)

/-- `SoundActive()` (R195). -/
def soundActive (s : State) : Bool := decide (s.st.toNat > 0)

/-- The snapshot read of `DT` (R196). -/
def readDT (s : State) : Byte := s.dt

/-- The snapshot read of `ST` (R196). -/
def readST (s : State) : Byte := s.st

/-- The snapshot read of `status` (R196). -/
def readStatus (s : State) : Status := s.status

/-! ## One host session -/

/-- What the host can issue (00_scope.md R6, 60_exceptions.md R202). -/
inductive Transaction where
  | reset
  | load (bytes : List Byte)
  | step
  | tick
  | tickTimers (elapsed : Duration)
  | setInput (k : Option KeyCode)
  | exportFrame
  | soundActive
  | readDT
  | readST
  | readStatus
  deriving DecidableEq, Repr

/-- What the host gets back (R202, 30_encoding.md R84). -/
inductive Reply where
  /-- nothing -/
  | nothing
  /-- `ok`, of a Step or a Load -/
  | ok
  /-- `waiting`, of a Step -/
  | waiting
  /-- `fault(F)`; the unknown word goes with UnknownOpcode when a Step raises it (60_exceptions.md R180) -/
  | fault (f : Fault) (word : Option Word)
  /-- ExportFrame's pixels and flag -/
  | frame (px : PixelBuffer) (redraw : Bool)
  /-- SoundActive's answer -/
  | sound (active : Bool)
  /-- a timer's value -/
  | timer (t : Byte)
  /-- the run state -/
  | status (t : Status)
  deriving DecidableEq, Repr

/-- The word a Step that raised a fault reports with it (R180): only for UnknownOpcode. -/
def reportedWord (s : State) : HaltCause → Option Word
  | .unknownOpcode => some s.fetchWord
  | .stackOverflow => none
  | .stackUnderflow => none

/-- The reply to a Step that led from `s` to `t` (30_encoding.md R84). -/
def stepReply (s t : State) : Reply :=
  match s.status with
  | .waitingForKey _ => .waiting
  | .halted c => .fault c.toFault none
  | .running =>
    match t.status with
    | .halted c => .fault c.toFault (reportedWord s c)
    | .running => .ok
    | .waitingForKey _ => .ok

/-- The machine and whether `Load` is still open: after Reset, until the first Step or the first Load that succeeds
(70_reset_and_hazards.md R221; log entry 6). -/
structure Session where
  machine : State
  loadOpen : Bool
  deriving DecidableEq, Repr

/-- The machine as it is created (R220, R222). -/
def Session.create (cfg : Config) : Session := { machine := State.resetWith cfg, loadOpen := true }

/-- The Step transaction in a session. -/
def Session.step (cfg : Config) (m : Session) : Host.Outcome (Session × Reply) Fault Refusal :=
  match stepWith cfg m.machine with
  | .next t => .next ({ machine := t, loadOpen := false }, stepReply m.machine t)
  | .fault f => .fault f
  | .refused r => .refused r

/-- The Load transaction in a session: a failed one changes nothing and may be tried again (60_exceptions.md R184);
one outside the launch is refused (R221). -/
def Session.load (bytes : List Byte) (m : Session) : Host.Outcome (Session × Reply) Fault Refusal :=
  if m.loadOpen then
    match loadImage bytes m.machine with
    | .next t => .next ({ machine := t, loadOpen := false }, .ok)
    | .fault f => .next (m, .fault f none)
    | .refused r => .refused r
  else .refused .loadOutsideLaunch

/-- A transaction that answers and changes the machine by a function. -/
def Session.put (m : Session) (t : State) (r : Reply) : Host.Outcome (Session × Reply) Fault Refusal :=
  .next ({ m with machine := t }, r)

/-- One transaction (R202): atomic, on the whole state. -/
def Session.act (cfg : Config) (t : Transaction) (m : Session) : Host.Outcome (Session × Reply) Fault Refusal :=
  match t with
  | .reset => .next ({ machine := resetMachine cfg m.machine, loadOpen := true }, .nothing)
  | .load bytes => m.load bytes
  | .step => m.step cfg
  | .tick => m.put (Machine.tick m.machine) .nothing
  | .tickTimers elapsed => m.put (Machine.tickTimers elapsed m.machine) .nothing
  | .setInput k => m.put (Machine.setInput k m.machine) .nothing
  | .exportFrame =>
    m.put (Machine.exportFrame m.machine).2
      (.frame (Machine.exportFrame m.machine).1.1 (Machine.exportFrame m.machine).1.2)
  | .soundActive => m.put m.machine (.sound (Machine.soundActive m.machine))
  | .readDT => m.put m.machine (.timer (Machine.readDT m.machine))
  | .readST => m.put m.machine (.timer (Machine.readST m.machine))
  | .readStatus => m.put m.machine (.status (Machine.readStatus m.machine))

/-- Any finite sequence of transactions, in the host's order (60_exceptions.md R197), with the replies in order. -/
def Session.runAll (cfg : Config) : List Transaction → Session → Host.Outcome (Session × List Reply) Fault Refusal
  | [], m => .next (m, [])
  | t :: ts, m =>
    match m.act cfg t with
    | .next (m', r) =>
      match Session.runAll cfg ts m' with
      | .next (m'', rs) => .next (m'', r :: rs)
      | .fault f => .fault f
      | .refused q => .refused q
    | .fault f => .fault f
    | .refused q => .refused q

end Sys2Proof.Machine
end

