-- ==== Sys2Proof/Safety.lean ====
section
/-! DEFINITION. The terms claims are made in: what a safe state is, the invariant every transaction keeps, which
components an instruction leaves alone, and which pixels a sprite covers. -/

namespace Sys2Proof.Machine

/-- A state that has not gone wrong: a halted machine has (60_exceptions.md R189). -/
def State.Safe (s : State) : Prop := ∀ c, s.status ≠ .halted c

/-- The invariant of the machine under a configuration: memory is in canonical form, and with `strict_decode = false`
the machine never halted on an unknown word (60_exceptions.md R183). -/
def State.Inv (cfg : Config) (s : State) : Prop :=
  s.mem.wf ∧ (cfg.strictDecode = false → s.status ≠ .halted .unknownOpcode)

/-- The components of 10_state.md R20, and the model's own draw counter. -/
inductive Component where
  | memory
  | registers
  | addressRegister
  | programCounter
  | stackSlots
  | stackPointer
  | delayTimer
  | soundTimer
  | pixels
  | pendingKey
  | redrawFlag
  | runStatus
  | drawCounter
  deriving DecidableEq, Repr

/-- A component reads the same in both states. -/
def Unchanged (s t : State) : Component → Prop
  | .memory => ∀ a, t.memRead a = s.memRead a
  | .registers => ∀ k, t.reg k = s.reg k
  | .addressRegister => t.i = s.i
  | .programCounter => t.pc = s.pc
  | .stackSlots => ∀ k h, t.slot k h = s.slot k h
  | .stackPointer => t.sp = s.sp
  | .delayTimer => t.dt = s.dt
  | .soundTimer => t.st = s.st
  | .pixels => ∀ r c, pixelAt t.px r c = pixelAt s.px r c
  | .pendingKey => t.key = s.key
  | .redrawFlag => t.redraw = s.redraw
  | .runStatus => t.status = s.status
  | .drawCounter => t.draws = s.draws

/-- The frame: from `s` to `t` no component outside the list changes. -/
def OnlyChanges (cs : List Component) (s t : State) : Prop := ∀ c, c ∉ cs → Unchanged s t c

/-- The sprite of `n` rows at `I`, drawn at column `x0` and row `y0`, has a set bit on the pixel `(r, c)`
(43_display.md R151). -/
def State.SpriteSets (s : State) (x0 y0 : Byte) (n : Nat) (r : Fin 32) (c : Fin 64) : Prop :=
  ∃ row bit : Nat, row < n ∧ bit < 8 ∧ r.val = (y0.toNat + row) % 32 ∧ c.val = (x0.toNat + bit) % 64 ∧
    (s.memRead (s.i.toNat + row)).getLsbD (7 - bit) = true

/-- A state the host can bring the machine to, by any transactions in any order (60_exceptions.md R197). -/
def Session.Reachable (cfg : Config) (m : Session) : Prop :=
  ∃ ts rs, (Session.create cfg).runAll cfg ts = .next (m, rs)

end Sys2Proof.Machine
end

