-- ==== Sys2Proof/Certificates/Slice0/Obligations.lean ====
section
/-! DEFINITION. The statements for the provers. First one statement per instruction or per group of one shape: the
words that decode to it, that it completes, the values it writes, and its frame. Then decode and encode, the Step
transaction, the host's transactions, and what holds of the whole machine. Statements are over every state, reached by
a run or not, unless a hypothesis says otherwise. The words an instruction decodes from are those its own rule names; for
27 of the 34 patterns the spec marks their ground as general knowledge (30_encoding.md R77, decision D5; log entry 9).
That `pc` has 16 bits and advances modulo 65536 is decision D8 (10_state.md R24, 40_control_flow.md R108; log entry 9).
Where a docstring names a decision D<n> of 92_eei_decisions.md, that clause is the spec's own choice, which the model
follows, and the statement is derived. -/

open Sys2Proof Sys2Proof.Machine

/-! ## Control flow -/

/-- 40_control_flow.md R100. That an empty stack halts the machine is the spec's own decision (D11, D12; log entries
2 and 9). -/
def Obligations.RetJumpsToThePoppedAddress : Prop :=
  decode 0x00EE = some .ret ∧
  (∀ (s : State) (h : 1 ≤ s.sp.val ∧ s.sp.val ≤ 12), ∃ t, exec .ret s = .next t ∧
    t.pc = s.slot s.sp.val h ∧ t.sp.val = s.sp.val - 1 ∧ OnlyChanges [.programCounter, .stackPointer] s t) ∧
  (∀ s : State, s.sp.val = 0 → ∃ t, exec .ret s = .next t ∧
    t.status = .halted .stackUnderflow ∧ OnlyChanges [.runStatus] s t)

/-- 40_control_flow.md R101. -/
def Obligations.JpSetsPcToItsAddress : Prop :=
  ∀ nnn : Addr, decode (BitVec.ofNat 16 (0x1000 + nnn.toNat)) = some (.jp nnn) ∧
    ∀ s, ∃ t, exec (.jp nnn) s = .next t ∧ t.pc.toNat = nnn.toNat ∧ OnlyChanges [.programCounter] s t

/-- 40_control_flow.md R102. That a full stack halts the machine, and its twelve 16-bit slots, are the spec's own
decisions (D10, D11, D12; log entries 2 and 9). -/
def Obligations.CallPushesTheNextAddress : Prop :=
  ∀ nnn : Addr, decode (BitVec.ofNat 16 (0x2000 + nnn.toNat)) = some (.call nnn) ∧
    (∀ (s : State) (h : s.sp.val < 12), ∃ t, exec (.call nnn) s = .next t ∧
      t.sp.val = s.sp.val + 1 ∧ (t.slot (s.sp.val + 1) ⟨by omega, by omega⟩).toNat = (s.pc.toNat + 2) % 65536 ∧
      (∀ k hk, k ≠ s.sp.val + 1 → t.slot k hk = s.slot k hk) ∧ t.pc.toNat = nnn.toNat ∧
      OnlyChanges [.programCounter, .stackPointer, .stackSlots] s t) ∧
    (∀ s : State, s.sp.val = 12 → ∃ t, exec (.call nnn) s = .next t ∧
      t.status = .halted .stackOverflow ∧ OnlyChanges [.runStatus] s t)

/-- 40_control_flow.md R103, R104. -/
def Obligations.SeSneImmediateSkipOneWord : Prop :=
  ∀ (x : RegIdx) (nn : Byte),
    decode (BitVec.ofNat 16 (0x3000 + x.val * 0x100 + nn.toNat)) = some (.seImm x nn) ∧
    decode (BitVec.ofNat 16 (0x4000 + x.val * 0x100 + nn.toNat)) = some (.sneImm x nn) ∧
    (∀ s, ∃ t, exec (.seImm x nn) s = .next t ∧
      t.pc.toNat = (s.pc.toNat + if (s.reg x).toNat = nn.toNat then 4 else 2) % 65536 ∧
      OnlyChanges [.programCounter] s t) ∧
    (∀ s, ∃ t, exec (.sneImm x nn) s = .next t ∧
      t.pc.toNat = (s.pc.toNat + if (s.reg x).toNat = nn.toNat then 2 else 4) % 65536 ∧
      OnlyChanges [.programCounter] s t)

/-- 40_control_flow.md R105, R106. -/
def Obligations.SeSneRegisterSkipOneWord : Prop :=
  ∀ x y : RegIdx,
    decode (BitVec.ofNat 16 (0x5000 + x.val * 0x100 + y.val * 0x10)) = some (.seReg x y) ∧
    decode (BitVec.ofNat 16 (0x9000 + x.val * 0x100 + y.val * 0x10)) = some (.sneReg x y) ∧
    (∀ s, ∃ t, exec (.seReg x y) s = .next t ∧
      t.pc.toNat = (s.pc.toNat + if (s.reg x).toNat = (s.reg y).toNat then 4 else 2) % 65536 ∧
      OnlyChanges [.programCounter] s t) ∧
    (∀ s, ∃ t, exec (.sneReg x y) s = .next t ∧
      t.pc.toNat = (s.pc.toNat + if (s.reg x).toNat = (s.reg y).toNat then 2 else 4) % 65536 ∧
      OnlyChanges [.programCounter] s t)

/-- 40_control_flow.md R107: the sum is stored whole, so the next fetch wraps into low memory. -/
def Obligations.JpV0AddsRegisterZero : Prop :=
  ∀ nnn : Addr, decode (BitVec.ofNat 16 (0xB000 + nnn.toNat)) = some (.jpV0 nnn) ∧
    ∀ s, ∃ t, exec (.jpV0 nnn) s = .next t ∧ t.pc.toNat = (s.reg 0).toNat + nnn.toNat ∧
      OnlyChanges [.programCounter] s t

/-! ## Registers, arithmetic, logic, random -/

/-- 41_alu.md R120. -/
def Obligations.LdImmediateWritesTheRegister : Prop :=
  ∀ (x : RegIdx) (nn : Byte),
    decode (BitVec.ofNat 16 (0x6000 + x.val * 0x100 + nn.toNat)) = some (.ldImm x nn) ∧
    ∀ s, ∃ t, exec (.ldImm x nn) s = .next t ∧ t.reg x = nn ∧ (∀ k, k ≠ x → t.reg k = s.reg k) ∧
      t.pc.toNat = (s.pc.toNat + 2) % 65536 ∧ OnlyChanges [.registers, .programCounter] s t

/-- 41_alu.md R121: no flag, so VF is as before unless it is `x`. -/
def Obligations.AddImmediateWrapsWithoutFlag : Prop :=
  ∀ (x : RegIdx) (nn : Byte),
    decode (BitVec.ofNat 16 (0x7000 + x.val * 0x100 + nn.toNat)) = some (.addImm x nn) ∧
    ∀ s, ∃ t, exec (.addImm x nn) s = .next t ∧ (t.reg x).toNat = ((s.reg x).toNat + nn.toNat) % 256 ∧
      (∀ k, k ≠ x → t.reg k = s.reg k) ∧ t.pc.toNat = (s.pc.toNat + 2) % 65536 ∧
      OnlyChanges [.registers, .programCounter] s t

/-- 41_alu.md R122. -/
def Obligations.LdRegisterCopies : Prop :=
  ∀ x y : RegIdx,
    decode (BitVec.ofNat 16 (0x8000 + x.val * 0x100 + y.val * 0x10)) = some (.ldReg x y) ∧
    ∀ s, ∃ t, exec (.ldReg x y) s = .next t ∧ t.reg x = s.reg y ∧ (∀ k, k ≠ x → t.reg k = s.reg k) ∧
      t.pc.toNat = (s.pc.toNat + 2) % 65536 ∧ OnlyChanges [.registers, .programCounter] s t

/-- 41_alu.md R123, R124, R125: bit by bit, no flag. -/
def Obligations.LogicIsBitwiseWithoutFlag : Prop :=
  ∀ x y : RegIdx,
    decode (BitVec.ofNat 16 (0x8001 + x.val * 0x100 + y.val * 0x10)) = some (.orReg x y) ∧
    decode (BitVec.ofNat 16 (0x8002 + x.val * 0x100 + y.val * 0x10)) = some (.andReg x y) ∧
    decode (BitVec.ofNat 16 (0x8003 + x.val * 0x100 + y.val * 0x10)) = some (.xorReg x y) ∧
    (∀ s, ∃ t, exec (.orReg x y) s = .next t ∧
      (∀ j, (t.reg x).getLsbD j = ((s.reg x).getLsbD j || (s.reg y).getLsbD j)) ∧
      (∀ k, k ≠ x → t.reg k = s.reg k) ∧ t.pc.toNat = (s.pc.toNat + 2) % 65536 ∧
      OnlyChanges [.registers, .programCounter] s t) ∧
    (∀ s, ∃ t, exec (.andReg x y) s = .next t ∧
      (∀ j, (t.reg x).getLsbD j = ((s.reg x).getLsbD j && (s.reg y).getLsbD j)) ∧
      (∀ k, k ≠ x → t.reg k = s.reg k) ∧ t.pc.toNat = (s.pc.toNat + 2) % 65536 ∧
      OnlyChanges [.registers, .programCounter] s t) ∧
    (∀ s, ∃ t, exec (.xorReg x y) s = .next t ∧
      (∀ j, (t.reg x).getLsbD j = xor ((s.reg x).getLsbD j) ((s.reg y).getLsbD j)) ∧
      (∀ k, k ≠ x → t.reg k = s.reg k) ∧ t.pc.toNat = (s.pc.toNat + 2) % 65536 ∧
      OnlyChanges [.registers, .programCounter] s t)

/-- 41_alu.md R126; with `x` = VF the carry is what VF holds (for the order of the two writes see also decision
D13). -/
def Obligations.AddRegistersSetsCarry : Prop :=
  ∀ x y : RegIdx,
    decode (BitVec.ofNat 16 (0x8004 + x.val * 0x100 + y.val * 0x10)) = some (.addReg x y) ∧
    ∀ s, ∃ t, exec (.addReg x y) s = .next t ∧
      (x ≠ vf → (t.reg x).toNat = ((s.reg x).toNat + (s.reg y).toNat) % 256) ∧
      t.reg vf = (if (s.reg x).toNat + (s.reg y).toNat > 255 then 1 else 0) ∧
      (∀ k, k ≠ x → k ≠ vf → t.reg k = s.reg k) ∧ t.pc.toNat = (s.pc.toNat + 2) % 65536 ∧
      OnlyChanges [.registers, .programCounter] s t

/-- 41_alu.md R127; with `x` = VF the flag is what VF holds (for the order of the two writes see also decision
D13). -/
def Obligations.SubRegistersSetsNoBorrow : Prop :=
  ∀ x y : RegIdx,
    decode (BitVec.ofNat 16 (0x8005 + x.val * 0x100 + y.val * 0x10)) = some (.subReg x y) ∧
    ∀ s, ∃ t, exec (.subReg x y) s = .next t ∧
      (x ≠ vf → ((t.reg x).toNat : Int) = ((s.reg x).toNat - (s.reg y).toNat : Int) % 256) ∧
      t.reg vf = (if (s.reg y).toNat ≤ (s.reg x).toNat then 1 else 0) ∧
      (∀ k, k ≠ x → k ≠ vf → t.reg k = s.reg k) ∧ t.pc.toNat = (s.pc.toNat + 2) % 65536 ∧
      OnlyChanges [.registers, .programCounter] s t

/-- 41_alu.md R128: the `y` field plays no part (the spec's own decision D14), and the flag is written last (D13; log
entries 9 and 10). -/
def Obligations.ShrMovesTheLowBitToVf : Prop :=
  ∀ x y : RegIdx,
    decode (BitVec.ofNat 16 (0x8006 + x.val * 0x100 + y.val * 0x10)) = some (.shr x y) ∧
    ∀ s, ∃ t, exec (.shr x y) s = .next t ∧
      (x ≠ vf → (t.reg x).toNat = (s.reg x).toNat / 2) ∧ (t.reg vf).toNat = (s.reg x).toNat % 2 ∧
      (∀ k, k ≠ x → k ≠ vf → t.reg k = s.reg k) ∧ t.pc.toNat = (s.pc.toNat + 2) % 65536 ∧
      OnlyChanges [.registers, .programCounter] s t

/-- 41_alu.md R129: the destination is still `V[x]`, and with `x` = VF the flag is what VF holds (for the order of the
two writes see also decision D13). -/
def Obligations.SubnSubtractsTheOtherWay : Prop :=
  ∀ x y : RegIdx,
    decode (BitVec.ofNat 16 (0x8007 + x.val * 0x100 + y.val * 0x10)) = some (.subnReg x y) ∧
    ∀ s, ∃ t, exec (.subnReg x y) s = .next t ∧
      (x ≠ vf → ((t.reg x).toNat : Int) = ((s.reg y).toNat - (s.reg x).toNat : Int) % 256) ∧
      t.reg vf = (if (s.reg x).toNat ≤ (s.reg y).toNat then 1 else 0) ∧
      (∀ k, k ≠ x → k ≠ vf → t.reg k = s.reg k) ∧ t.pc.toNat = (s.pc.toNat + 2) % 65536 ∧
      OnlyChanges [.registers, .programCounter] s t

/-- 41_alu.md R130: the `y` field plays no part (D14), the flag is 0 or 1 (D15) and is written last (D13): the spec's own
decisions (log entries 9 and 10). -/
def Obligations.ShlMovesTheHighBitToVf : Prop :=
  ∀ x y : RegIdx,
    decode (BitVec.ofNat 16 (0x800E + x.val * 0x100 + y.val * 0x10)) = some (.shl x y) ∧
    ∀ s, ∃ t, exec (.shl x y) s = .next t ∧
      (x ≠ vf → (t.reg x).toNat = (s.reg x).toNat * 2 % 256) ∧ (t.reg vf).toNat = (s.reg x).toNat / 128 ∧
      (∀ k, k ≠ x → k ≠ vf → t.reg k = s.reg k) ∧ t.pc.toNat = (s.pc.toNat + 2) % 65536 ∧
      OnlyChanges [.registers, .programCounter] s t

/-- 41_alu.md R131. The drawn byte is the free value `Config.drawByte s.draws` (the spec's own decision D19) and the draw
counter is the model's own (log entry 1): the statement holds whatever bytes are drawn. -/
def Obligations.RndMasksAFreeByte : Prop :=
  ∀ (x : RegIdx) (nn : Byte),
    decode (BitVec.ofNat 16 (0xC000 + x.val * 0x100 + nn.toNat)) = some (.rnd x nn) ∧
    ∀ s, ∃ t, exec (.rnd x nn) s = .next t ∧
      (∀ j, (t.reg x).getLsbD j = ((Config.drawByte s.draws).getLsbD j && nn.getLsbD j)) ∧
      (∀ k, k ≠ x → t.reg k = s.reg k) ∧ t.draws = s.draws + 1 ∧ t.pc.toNat = (s.pc.toNat + 2) % 65536 ∧
      OnlyChanges [.registers, .programCounter, .drawCounter] s t

/-! ## The address register and memory -/

/-- 42_address_memory.md R140. -/
def Obligations.LdISetsTheAddress : Prop :=
  ∀ nnn : Addr, decode (BitVec.ofNat 16 (0xA000 + nnn.toNat)) = some (.ldI nnn) ∧
    ∀ s, ∃ t, exec (.ldI nnn) s = .next t ∧ t.i.toNat = nnn.toNat ∧ t.pc.toNat = (s.pc.toNat + 2) % 65536 ∧
      OnlyChanges [.addressRegister, .programCounter] s t

/-- 42_address_memory.md R141: no flag, whatever the sum. That the sum wraps at 16 bits is the spec's own decision (D9;
log entry 9). -/
def Obligations.AddIWrapsAtSixteenBits : Prop :=
  ∀ x : RegIdx, decode (BitVec.ofNat 16 (0xF01E + x.val * 0x100)) = some (.addIVx x) ∧
    ∀ s, ∃ t, exec (.addIVx x) s = .next t ∧ t.i.toNat = (s.i.toNat + (s.reg x).toNat) % 65536 ∧
      t.pc.toNat = (s.pc.toNat + 2) % 65536 ∧ OnlyChanges [.addressRegister, .programCounter] s t

/-- 42_address_memory.md R142. -/
def Obligations.LdFPointsAtTheGlyph : Prop :=
  ∀ x : RegIdx, decode (BitVec.ofNat 16 (0xF029 + x.val * 0x100)) = some (.ldFVx x) ∧
    ∀ s, ∃ t, exec (.ldFVx x) s = .next t ∧ t.i.toNat = 5 * ((s.reg x).toNat % 16) ∧
      t.pc.toNat = (s.pc.toNat + 2) % 65536 ∧ OnlyChanges [.addressRegister, .programCounter] s t

/-- 42_address_memory.md R143: the three bytes at `I`, `I+1`, `I+2` modulo 4096, and no other byte. -/
def Obligations.LdBStoresThreeDigits : Prop :=
  ∀ x : RegIdx, decode (BitVec.ofNat 16 (0xF033 + x.val * 0x100)) = some (.ldBVx x) ∧
    ∀ s, ∃ t, exec (.ldBVx x) s = .next t ∧
      (t.memRead (s.i.toNat + 0)).toNat = (s.reg x).toNat / 100 ∧
      (t.memRead (s.i.toNat + 1)).toNat = (s.reg x).toNat / 10 % 10 ∧
      (t.memRead (s.i.toNat + 2)).toNat = (s.reg x).toNat % 10 ∧
      (∀ a, (∀ k < 3, a % 4096 ≠ (s.i.toNat + k) % 4096) → t.memRead a = s.memRead a) ∧
      t.pc.toNat = (s.pc.toNat + 2) % 65536 ∧ OnlyChanges [.memory, .programCounter] s t

/-- 42_address_memory.md R144: the `x + 1` bytes at `I` modulo 4096, and no other byte. -/
def Obligations.StoreRegsStoresTheBlock : Prop :=
  ∀ x : RegIdx, decode (BitVec.ofNat 16 (0xF055 + x.val * 0x100)) = some (.storeRegs x) ∧
    ∀ s, ∃ t, exec (.storeRegs x) s = .next t ∧
      (∀ k : RegIdx, k ≤ x → t.memRead (s.i.toNat + k.val) = s.reg k) ∧
      (∀ a, (∀ k ≤ x.val, a % 4096 ≠ (s.i.toNat + k) % 4096) → t.memRead a = s.memRead a) ∧
      t.pc.toNat = (s.pc.toNat + 2) % 65536 ∧ OnlyChanges [.memory, .programCounter] s t

/-- 42_address_memory.md R145. -/
def Obligations.LoadRegsLoadsTheBlock : Prop :=
  ∀ x : RegIdx, decode (BitVec.ofNat 16 (0xF065 + x.val * 0x100)) = some (.loadRegs x) ∧
    ∀ s, ∃ t, exec (.loadRegs x) s = .next t ∧
      (∀ k : RegIdx, k ≤ x → t.reg k = s.memRead (s.i.toNat + k.val)) ∧
      (∀ k : RegIdx, x < k → t.reg k = s.reg k) ∧
      t.pc.toNat = (s.pc.toNat + 2) % 65536 ∧ OnlyChanges [.registers, .programCounter] s t

/-! ## The display -/

/-- 43_display.md R150. -/
def Obligations.ClsBlanksTheBuffer : Prop :=
  decode 0x00E0 = some .cls ∧
  ∀ s, ∃ t, exec .cls s = .next t ∧ (∀ r c, pixelAt t.px r c = false) ∧ t.redraw = true ∧
    t.pc.toNat = (s.pc.toNat + 2) % 65536 ∧ OnlyChanges [.pixels, .redrawFlag, .programCounter] s t

/-- 43_display.md R151, as a closed form: the pixels under a set sprite bit are inverted and no other, and VF says
whether one of them went from set to unset. That a coordinate in VF is read before VF is written, that `I` stays, and
that `redraw` is set even when no pixel changes are the spec's own decisions (D13, D16, D24; log entry 9). -/
def Obligations.DrwXorsTheSprite : Prop :=
  ∀ (x y : RegIdx) (n : Fin 16),
    decode (BitVec.ofNat 16 (0xD000 + x.val * 0x100 + y.val * 0x10 + n.val)) = some (.drw x y n) ∧
    ∀ s, ∃ t, exec (.drw x y n) s = .next t ∧
      (∀ r c, s.SpriteSets (s.reg x) (s.reg y) n.val r c → pixelAt t.px r c = !pixelAt s.px r c) ∧
      (∀ r c, ¬ s.SpriteSets (s.reg x) (s.reg y) n.val r c → pixelAt t.px r c = pixelAt s.px r c) ∧
      ((∃ r c, pixelAt s.px r c = true ∧ pixelAt t.px r c = false) → t.reg vf = 1) ∧
      ((¬ ∃ r c, pixelAt s.px r c = true ∧ pixelAt t.px r c = false) → t.reg vf = 0) ∧
      (∀ k, k ≠ vf → t.reg k = s.reg k) ∧ t.redraw = true ∧ t.pc.toNat = (s.pc.toNat + 2) % 65536 ∧
      OnlyChanges [.pixels, .registers, .redrawFlag, .programCounter] s t

/-- 43_display.md R152: between the two draws only the buffer, the coordinates modulo the dimensions and the sprite
bytes have to stay. The spec marks the precise form as derived from R151, where a coordinate in VF is its value before
the draw (D13; log entry 9). -/
def Obligations.DrawingTwiceCancels : Prop :=
  ∀ (x y x' y' : RegIdx) (n : Fin 16) (s t u w : State),
    exec (.drw x y n) s = .next t → exec (.drw x' y' n) u = .next w → u.px = t.px →
    (u.reg x').toNat % 64 = (s.reg x).toNat % 64 → (u.reg y').toNat % 32 = (s.reg y).toNat % 32 →
    (∀ row < n.val, u.memRead (u.i.toNat + row) = s.memRead (s.i.toNat + row)) →
    w.px = s.px ∧
    ((∀ r c, s.SpriteSets (s.reg x) (s.reg y) n.val r c → pixelAt s.px r c = false) →
      t.reg vf = 0 ∧
      ((∃ r c, s.SpriteSets (s.reg x) (s.reg y) n.val r c) → w.reg vf = 1) ∧
      ((¬ ∃ r c, s.SpriteSets (s.reg x) (s.reg y) n.val r c) → w.reg vf = 0))

/-! ## Keys and timers -/

/-- 44_keys_timers.md R160, R161: all 8 bits of the register are compared (the spec's own decision D18; log entry 9),
and no key matches `none`. -/
def Obligations.SkpSknpCompareThePendingKey : Prop :=
  ∀ x : RegIdx,
    decode (BitVec.ofNat 16 (0xE09E + x.val * 0x100)) = some (.skp x) ∧
    decode (BitVec.ofNat 16 (0xE0A1 + x.val * 0x100)) = some (.sknp x) ∧
    (∀ s, ∃ t, exec (.skp x) s = .next t ∧
      t.pc.toNat = (s.pc.toNat + if s.key.map Fin.val = some (s.reg x).toNat then 4 else 2) % 65536 ∧
      OnlyChanges [.programCounter] s t) ∧
    (∀ s, ∃ t, exec (.sknp x) s = .next t ∧
      t.pc.toNat = (s.pc.toNat + if s.key.map Fin.val = some (s.reg x).toNat then 2 else 4) % 65536 ∧
      OnlyChanges [.programCounter] s t)

/-- 44_keys_timers.md R162. -/
def Obligations.LdVxDTReadsTheDelayTimer : Prop :=
  ∀ x : RegIdx, decode (BitVec.ofNat 16 (0xF007 + x.val * 0x100)) = some (.ldVxDT x) ∧
    ∀ s, ∃ t, exec (.ldVxDT x) s = .next t ∧ t.reg x = s.dt ∧ (∀ k, k ≠ x → t.reg k = s.reg k) ∧
      t.pc.toNat = (s.pc.toNat + 2) % 65536 ∧ OnlyChanges [.registers, .programCounter] s t

/-- 44_keys_timers.md R163: the wait is entered whatever `key` holds; while it lasts a Step changes nothing; the key
that ends it goes to `V[x]`. These corners are the spec's own decision (D17; log entry 9). -/
def Obligations.LdVxKWaitsForAKey : Prop :=
  ∀ x : RegIdx, decode (BitVec.ofNat 16 (0xF00A + x.val * 0x100)) = some (.ldVxK x) ∧
    ∀ s, ∃ t, exec (.ldVxK x) s = .next t ∧ t.status = .waitingForKey x ∧
      t.pc.toNat = (s.pc.toNat + 2) % 65536 ∧ OnlyChanges [.runStatus, .programCounter] s t ∧
      step t = .next t ∧ (setInput none t).status = .waitingForKey x ∧
      ∀ k, (setInput (some k) t).status = .running ∧ ((setInput (some k) t).reg x).toNat = k.val ∧
        (setInput (some k) t).pc = t.pc

/-- 44_keys_timers.md R164, R165. -/
def Obligations.LdDTAndLdSTSetTheTimers : Prop :=
  ∀ x : RegIdx,
    decode (BitVec.ofNat 16 (0xF015 + x.val * 0x100)) = some (.ldDTVx x) ∧
    decode (BitVec.ofNat 16 (0xF018 + x.val * 0x100)) = some (.ldSTVx x) ∧
    (∀ s, ∃ t, exec (.ldDTVx x) s = .next t ∧ t.dt = s.reg x ∧ t.pc.toNat = (s.pc.toNat + 2) % 65536 ∧
      OnlyChanges [.delayTimer, .programCounter] s t) ∧
    (∀ s, ∃ t, exec (.ldSTVx x) s = .next t ∧ t.st = s.reg x ∧ t.pc.toNat = (s.pc.toNat + 2) % 65536 ∧
      OnlyChanges [.soundTimer, .programCounter] s t)

/-! ## Decode and encode -/

/-- A few words written out from the patterns of 30_encoding.md R76, one per family (D4, D5; log entry 9). -/
def Obligations.SpecWordsDecode : Prop :=
  decode 0x00E0 = some .cls ∧ decode 0x2210 = some (.call 0x210) ∧ decode 0x6005 = some (.ldImm 0 0x05) ∧
  decode 0x8127 = some (.subnReg 1 2) ∧ decode 0xA300 = some (.ldI 0x300) ∧ decode 0xD125 = some (.drw 1 2 5) ∧
  decode 0xE0A1 = some (.sknp 0) ∧ decode 0xF355 = some (.storeRegs 3) ∧ decode 0x0000 = none

/-- 30_encoding.md R75: the rows are disjoint, a word that selects a row is that row's instruction, and a word that
selects none is unknown. That the masks are exact is the spec's own decision (D6; log entry 9). -/
def Obligations.DecodeFollowsDisjointRows : Prop :=
  rows.length = 34 ∧ rows.Pairwise (fun a b => ∀ w, ¬ (a.selects w = true ∧ b.selects w = true)) ∧
  (∀ w, ∀ r ∈ rows, w &&& r.mask = r.pattern → decode w = some (r.build w)) ∧
  (∀ w, (∀ r ∈ rows, w &&& r.mask ≠ r.pattern) → decode w = none)

/-- 30_encoding.md R79: the unknown words, nibble by nibble; the counts the rule gives are not stated. It rests on the
spec's own decisions D5, D6 and D27 (log entry 9). -/
def Obligations.UnknownWordsAreExactlyThese : Prop :=
  ∀ w : Word, decode w = none ↔
    (w.toNat / 0x1000 = 0x0 ∧ w.toNat % 0x1000 ≠ 0x0E0 ∧ w.toNat % 0x1000 ≠ 0x0EE) ∨
    (w.toNat / 0x1000 = 0x5 ∧ w.toNat % 0x10 ≠ 0) ∨
    (w.toNat / 0x1000 = 0x8 ∧ w.toNat % 0x10 ∈ [0x8, 0x9, 0xA, 0xB, 0xC, 0xD, 0xF]) ∨
    (w.toNat / 0x1000 = 0x9 ∧ w.toNat % 0x10 ≠ 0) ∨
    (w.toNat / 0x1000 = 0xE ∧ w.toNat % 0x100 ∉ [0x9E, 0xA1]) ∨
    (w.toNat / 0x1000 = 0xF ∧ w.toNat % 0x100 ∉ [0x07, 0x0A, 0x15, 0x18, 0x1E, 0x29, 0x33, 0x55, 0x65])

/-- Every instruction, at every operand, is what its word decodes to; as bytes too, with what follows left over
(30_encoding.md R72 to R76; the spec's own decisions D3 to D5; log entry 9). -/
def Obligations.DecodeOfEncodeIsTheInstruction : Prop :=
  ∀ i : Instr, decode (encode i) = some i ∧
    ∀ rest, decodeBytes (bytesOfWord (encode i) ++ rest) = .ok (i, rest)

/-- Every word that decodes is the word of its instruction: no word has two readings (30_encoding.md R75, R76; the
spec's own decisions D4 to D6; log entries 9 and 10). -/
def Obligations.EncodeOfDecodeIsTheWord : Prop :=
  ∀ (w : Word) (i : Instr), decode w = some i → encode i = w

/-! ## Fetch and the Step transaction -/

/-- 30_encoding.md R71: two byte reads modulo 4096, the byte at `pc` the more significant (the spec's own decisions D2
and D3; log entry 9). -/
def Obligations.FetchIsBigEndianAndWraps : Prop :=
  ∀ s : State, s.fetchWord.toNat =
    (s.mem.read (s.pc.toNat % 4096)).toNat * 0x100 + (s.mem.read ((s.pc.toNat + 1) % 4096)).toNat

/-- 30_encoding.md R84: when Running, and the two bytes at `pc` decode to an instruction, a Step is that instruction's
execution, with nothing added around it. The address modulus and the order of the two bytes are the spec's own decisions
(D2, D3; log entry 9). -/
def Obligations.StepRunsTheDecodedInstruction : Prop :=
  ∀ (cfg : Config) (s : State) (i : Instr), s.status = .running →
    decode (wordOfBytes (s.memRead s.pc.toNat) (s.memRead (s.pc.toNat + 1))) = some i →
    stepWith cfg s = exec i s ∧ step s = exec i s

/-- 30_encoding.md R80: an unknown word under both policies (decision D7, and D12 for the halt; log entries 2 and 3). -/
def Obligations.UnknownWordIsANoOpOrHalts : Prop :=
  ∀ (cfg : Config) (s : State), s.status = .running → decode s.fetchWord = none →
    (cfg.strictDecode = false → ∃ t, stepWith cfg s = .next t ∧ t.pc.toNat = (s.pc.toNat + 2) % 65536 ∧
      OnlyChanges [.programCounter] s t) ∧
    (cfg.strictDecode = true → ∃ t, stepWith cfg s = .next t ∧ t.status = .halted .unknownOpcode ∧
      OnlyChanges [.runStatus] s t)

/-- 30_encoding.md R84 and 60_exceptions.md R188, as the transaction Step of a session: its machine is the one the step
leaves, it closes the Load window (70_reset_and_hazards.md R221, the spec's own decision D23, in the model's Session: log
entry 6), and it replies. A Step while waiting or halted changes nothing and replies so; a Step
that raises a fault changes nothing but `status` and replies the fault, with the word if it is unknown (the spec's own
decision D12; log entry 2). -/
def Obligations.StepReplies : Prop :=
  ∀ (cfg : Config) (m : Session), ∃ t r, stepWith cfg m.machine = .next t ∧
    m.act cfg .step = .next (⟨t, false⟩, r) ∧ r = stepReply m.machine t ∧
    (∀ x, m.machine.status = .waitingForKey x → t = m.machine ∧ r = .waiting) ∧
    (∀ c, m.machine.status = .halted c → t = m.machine ∧ r = .fault c.toFault none) ∧
    (m.machine.status = .running → (∀ c, t.status ≠ .halted c) → r = .ok) ∧
    (m.machine.status = .running → ∀ c, t.status = .halted c → OnlyChanges [.runStatus] m.machine t ∧
      r = .fault c.toFault (if c = .unknownOpcode then some m.machine.fetchWord else none))

/-- 60_exceptions.md R185, in the model's form: no instruction and no Step ever answers an outcome fault or a refusal,
since the spec's faults are next states (log entry 2). -/
def Obligations.EveryStepAnswersANextState : Prop :=
  (∀ (i : Instr) (s : State), ∃ t, exec i s = .next t) ∧
  (∀ (cfg : Config) (s : State), ∃ t, stepWith cfg s = .next t) ∧ ∀ s : State, ∃ t, step s = .next t

/-- 20_memory.md R62, which the spec marks as derived: a block store over the next instruction is what the next Step
fetches (address modulus and byte order: D2, D3; log entry 9). -/
def Obligations.StoreIsSeenByTheNextFetch : Prop :=
  ∀ (x : RegIdx) (s : State), 1 ≤ x → s.i.toNat % 4096 = (s.pc.toNat + 2) % 4096 →
    ∃ t, exec (.storeRegs x) s = .next t ∧ t.fetchWord = wordOfBytes (s.reg 0) (s.reg 1)

/-- 70_reset_and_hazards.md R230: a jump to its own address leaves the whole state as it is. -/
def Obligations.JumpToItselfIsAFixedPoint : Prop :=
  ∀ (nnn : Addr) (s : State), s.status = .running → s.fetchInstr = some (.jp nnn) → s.pc.toNat = nnn.toNat →
    step s = .next s

/-- 95_test_vectors.md S3: a return with the stack as the call left it resumes 2 bytes past the call (width of `pc` and
depth of the stack: the spec's own decisions D8, D10; log entry 9). -/
def Obligations.ReturnResumesAfterTheCall : Prop :=
  ∀ (nnn : Addr) (s : State), s.sp.val < 12 → ∃ t, exec (.call nnn) s = .next t ∧
    ∀ u : State, u.stack = t.stack → u.sp = t.sp →
      ∃ w, exec .ret u = .next w ∧ w.pc.toNat = (s.pc.toNat + 2) % 65536 ∧ w.sp = s.sp

/-- 95_test_vectors.md S5: after Reset under any `FONT`, an argument here (decision D21; log entries 3 and 4), `LD F, Vx`
points at the five rows of the glyph. -/
def Obligations.GlyphRowsStandWhereLdFPoints : Prop :=
  ∀ (cfg : Config) (x : RegIdx) (b : Byte) (row : Fin 5),
    ∃ t, exec (.ldFVx x) ((State.resetWith cfg).setReg x b) = .next t ∧
      t.memRead (t.i.toNat + row.val) = cfg.font[5 * (b.toNat % 16) + row.val]'(by omega)

/-! ## Reset and Load -/

/-- 70_reset_and_hazards.md R220: the transaction Reset, for any configuration and from any session. It leaves what the
creation of the machine leaves, and opens the Load window (decision D23, log entry 6). `pc`, `key` and `status` after Reset, and Reset
at any time, are the spec's own decision (D22; log entry 9). The draw counter is the model's own (log entries 1 and 7)
and the statement says nothing of it. -/
def Obligations.ResetSetsEveryComponent : Prop :=
  ∀ (cfg : Config) (m : Session), ∃ t, m.act cfg .reset = .next (⟨t, true⟩, .nothing) ∧
    (∀ a : Fin 80, t.memRead a.val = cfg.font[a.val]) ∧ (∀ a, 80 ≤ a → a < 4096 → t.memRead a = 0) ∧
    (∀ k, t.reg k = 0) ∧ t.i = 0 ∧ t.pc = 0x0200 ∧ (∀ k hk, t.slot k hk = 0) ∧ t.sp = 0 ∧ t.dt = 0 ∧ t.st = 0 ∧
    (∀ r c, pixelAt t.px r c = false) ∧ t.key = none ∧ t.redraw = false ∧ t.status = .running ∧
    OnlyChanges [.drawCounter] (Session.create cfg).machine t

/-- 70_reset_and_hazards.md R221 and 60_exceptions.md R184: the transaction Load inside the launch window (the spec's own
decision D23; log entries 6 and 12). -/
def Obligations.LoadCopiesTheImage : Prop :=
  ∀ (cfg : Config) (bytes : List Byte) (m : Session), m.loadOpen = true →
    (bytes.length ≤ 3584 → ∃ t, m.act cfg (.load bytes) = .next (⟨t, false⟩, .ok) ∧
      (∀ k (h : k < bytes.length), t.memRead (0x200 + k) = bytes[k]) ∧
      (∀ a, a < 4096 → (a < 0x200 ∨ 0x200 + bytes.length ≤ a) → t.memRead a = m.machine.memRead a) ∧
      OnlyChanges [.memory] m.machine t) ∧
    (3584 < bytes.length → m.act cfg (.load bytes) = .next (m, .fault .loadTooLarge none))

/-- 70_reset_and_hazards.md R221: Load is open at creation and after a Reset, stays open until a Step or a Load answered
`ok`, and is refused from then until the next Reset (the spec's own decision D23; that the window is a field of the
model's Session is log entry 6). -/
def Obligations.LoadIsOpenOnlyInTheLaunch : Prop :=
  ∀ (cfg : Config) (bytes : List Byte) (m : Session),
    (Session.create cfg).loadOpen = true ∧
    (m.loadOpen = false → m.act cfg (.load bytes) = .refused .loadOutsideLaunch) ∧
    (∀ t m' r, m.act cfg t = .next (m', r) →
      ((t = .reset → m'.loadOpen = true) ∧ (t = .step → m'.loadOpen = false) ∧
        (t ≠ .reset → m.loadOpen = false → m'.loadOpen = false) ∧
        (∀ bs, t = .load bs → r = .ok → m'.loadOpen = false) ∧
        (m.loadOpen = true → t ≠ .step → (∀ bs, t = .load bs → r ≠ .ok) → m'.loadOpen = true)))

/-! ## Timers, input and output

That none of these transactions opens or closes the Load window is R221 and R202 of the spec, in the model's Session (the
spec's own decision D23; log entry 6). -/

/-- 60_exceptions.md R191: in every status. -/
def Obligations.TickDecrementsBothTimers : Prop :=
  ∀ (cfg : Config) (m : Session), ∃ t, m.act cfg .tick = .next (⟨t, m.loadOpen⟩, .nothing) ∧
    t.dt.toNat = m.machine.dt.toNat - 1 ∧ t.st.toNat = m.machine.st.toNat - 1 ∧
    OnlyChanges [.delayTimer, .soundTimer] m.machine t

/-- 60_exceptions.md R192: `floor(elapsed * 60)` Ticks, clamped at 0, for a duration of `num / den` seconds. That a
duration is a fraction with a nonzero denominator is the model's form (log entry 8). -/
def Obligations.TickTimersSubtractsWholeTicks : Prop :=
  ∀ (cfg : Config) (m : Session) (elapsed : Duration) (k : Nat), elapsed.wf = true →
    k * elapsed.den ≤ elapsed.num * 60 → elapsed.num * 60 < (k + 1) * elapsed.den →
    ∃ t, m.act cfg (.tickTimers elapsed) = .next (⟨t, m.loadOpen⟩, .nothing) ∧
      t.dt.toNat = m.machine.dt.toNat - k ∧ t.st.toNat = m.machine.st.toNat - k ∧
      OnlyChanges [.delayTimer, .soundTimer] m.machine t

/-- 60_exceptions.md R193: without edge detection, the spec's own decision (D17; log entry 9). -/
def Obligations.SetInputUpdatesTheLatchAndEndsAWait : Prop :=
  ∀ (cfg : Config) (m : Session) (k : Option KeyCode),
    ∃ t, m.act cfg (.setInput k) = .next (⟨t, m.loadOpen⟩, .nothing) ∧ t.key = k ∧
      (∀ r c, m.machine.status = .waitingForKey r → k = some c →
        t.status = .running ∧ (t.reg r).toNat = c.val ∧ (∀ j, j ≠ r → t.reg j = m.machine.reg j) ∧
        OnlyChanges [.pendingKey, .runStatus, .registers] m.machine t) ∧
      ((k = none ∨ ∀ r, m.machine.status ≠ .waitingForKey r) → OnlyChanges [.pendingKey] m.machine t)

/-- 60_exceptions.md R194. -/
def Obligations.ExportFrameReadsAndClears : Prop :=
  ∀ (cfg : Config) (m : Session), ∃ t px flag,
    m.act cfg .exportFrame = .next (⟨t, m.loadOpen⟩, .frame px flag) ∧
    (∀ r c, pixelAt px r c = pixelAt m.machine.px r c) ∧ flag = m.machine.redraw ∧ t.redraw = false ∧
    OnlyChanges [.redrawFlag] m.machine t

/-- 60_exceptions.md R195, R196: SoundActive is `ST > 0`, and it and the other reads change nothing. That a sound stays
active for exactly `ST` Ticks is inferred from R191 and R195 (44_keys_timers.md R165 says it of a value just written). -/
def Obligations.HostReadsChangeNothing : Prop :=
  ∀ (cfg : Config) (m : Session),
    m.act cfg .soundActive = .next (m, .sound (decide (0 < m.machine.st.toNat))) ∧
    m.act cfg .readDT = .next (m, .timer m.machine.dt) ∧ m.act cfg .readST = .next (m, .timer m.machine.st) ∧
    m.act cfg .readStatus = .next (m, .status m.machine.status) ∧
    ∀ k, soundActive (ticks k m.machine) = decide (k < m.machine.st.toNat)

/-! ## The whole machine -/

/-- The reset state meets the invariant, under any configuration and font (the canonical form is the model's: log entry
4). -/
def Obligations.ResetMeetsTheInvariant : Prop :=
  ∀ (cfg : Config) (s : State), State.reset.Inv cfg ∧ (State.resetWith cfg).Inv cfg ∧ (resetMachine cfg s).Inv cfg

/-- Every Step keeps memory canonical (the form is the model's: log entry 4; 4096 bytes and the address modulus are the
spec's own decisions D1, D2: log entry 9), and never halts on an unknown word while `strict_decode` is false
(60_exceptions.md R183, D7; log entry 3). -/
def Obligations.StepKeepsTheInvariant : Prop :=
  (∀ s t : State, s.Inv defaultConfig → step s = .next t → t.Inv defaultConfig) ∧
  ∀ (cfg : Config) (s t : State), s.Inv cfg → stepWith cfg s = .next t → t.Inv cfg

/-- Every transaction keeps the invariant, so in every interleaving of transactions from the machine's creation it holds
(60_exceptions.md R197; canonical form and Session are the model's: log entries 4 and 6; D1, D2, D7, D25 are the spec's
own decisions: log entries 3, 9 and 11). -/
def Obligations.EveryTransactionKeepsTheInvariant : Prop :=
  (∀ (cfg : Config) (t : Transaction) (m m' : Session) (r : Reply),
    m.machine.Inv cfg → m.act cfg t = .next (m', r) → m'.machine.Inv cfg) ∧
  ∀ (cfg : Config) (m : Session), Session.Reachable cfg m → m.machine.Inv cfg

/-- Two canonical memories that read the same at every address are the same data (the form is the model's: log entry
4). -/
def Obligations.CanonicalMemoryIsUnique : Prop :=
  ∀ m m' : Memory, m.wf → m'.wf → (∀ a, m.read a = m'.read a) → m = m'

/-- Which instructions may touch which component: every other instruction leaves it (20_memory.md R50,
40_control_flow.md R109, 42_address_memory.md R146, 43_display.md R153, 10_state.md R23, R25 to R30, R32). That DRW and
the memory instructions leave `I` is the spec's own decision D16 (log entry 9), that a fault changes `status` its
decision D12 (log entry 2), and the draw counter is the model's (log entry 1). -/
def Obligations.OnlyTheNamedInstructionsWrite : Prop :=
  ∀ (i : Instr) (s t : State), exec i s = .next t →
    ((∀ x, i ≠ .ldBVx x ∧ i ≠ .storeRegs x) → Unchanged s t .memory) ∧
    ((i ≠ .cls ∧ ∀ x y n, i ≠ .drw x y n) → Unchanged s t .pixels ∧ Unchanged s t .redrawFlag) ∧
    ((∀ nnn x, i ≠ .ldI nnn ∧ i ≠ .addIVx x ∧ i ≠ .ldFVx x) → Unchanged s t .addressRegister) ∧
    ((i ≠ .ret ∧ ∀ nnn, i ≠ .call nnn) → Unchanged s t .stackPointer ∧ Unchanged s t .stackSlots) ∧
    ((∀ x, i ≠ .ldDTVx x) → Unchanged s t .delayTimer) ∧
    ((∀ x, i ≠ .ldSTVx x) → Unchanged s t .soundTimer) ∧
    Unchanged s t .pendingKey ∧
    ((i ≠ .ret ∧ ∀ nnn x, i ≠ .call nnn ∧ i ≠ .ldVxK x) → Unchanged s t .runStatus) ∧
    ((∀ x nn, i ≠ .rnd x nn) → Unchanged s t .drawCounter)

/-- 10_state.md R22, which instructions write VF: the six flag instructions leave VF at 0 or 1; every other instruction
leaves VF alone unless it names VF as its destination, as the last register of a block load included. That the flag is
written last and that SHL's is 0 or 1 are the spec's own decisions (D13, D15; log entry 9). -/
def Obligations.VfIsWrittenOnlyAsTheSpecNames : Prop :=
  ∀ (i : Instr) (s t : State), exec i s = .next t →
    ((∃ x y n, i = .addReg x y ∨ i = .subReg x y ∨ i = .shr x y ∨ i = .subnReg x y ∨ i = .shl x y ∨ i = .drw x y n) →
      t.reg vf = 0 ∨ t.reg vf = 1) ∧
    ((∀ x y n, i ≠ .addReg x y ∧ i ≠ .subReg x y ∧ i ≠ .shr x y ∧ i ≠ .subnReg x y ∧ i ≠ .shl x y ∧
        i ≠ .drw x y n) →
      t.reg vf = s.reg vf ∨ ∃ nn y, i = .ldImm vf nn ∨ i = .addImm vf nn ∨ i = .ldReg vf y ∨ i = .orReg vf y ∨
        i = .andReg vf y ∨ i = .xorReg vf y ∨ i = .rnd vf nn ∨ i = .ldVxDT vf ∨ i = .loadRegs vf)

/-- 10_state.md R32: the transitions of `status`, over every transaction; there is no other. `Halted`, and Reset from any
state, are the spec's own decisions (D12, D22; log entries 2 and 9). -/
def Obligations.StatusHasOnlyTheseTransitions : Prop :=
  ∀ (cfg : Config) (t : Transaction) (m m' : Session) (r : Reply), m.act cfg t = .next (m', r) →
    m'.machine.status = m.machine.status ∨
    (t = .step ∧ m.machine.status = .running ∧
      ∃ x, m.machine.fetchInstr = some (.ldVxK x) ∧ m'.machine.status = .waitingForKey x) ∨
    (t = .step ∧ m.machine.status = .running ∧ ∃ c, m'.machine.status = .halted c) ∨
    (∃ x k, t = .setInput (some k) ∧ m.machine.status = .waitingForKey x ∧ m'.machine.status = .running) ∨
    (t = .reset ∧ m'.machine.status = .running)

/-- 60_exceptions.md R189: a halted machine answers every transaction but Reset and Load, stays halted with the same
cause, and only its timers, its key latch and its redraw flag can move (the spec's own decision D12; log entry 2). -/
def Obligations.HaltedUntilReset : Prop :=
  ∀ (cfg : Config) (ts : List Transaction) (m : Session) (c : HaltCause),
    m.machine.status = .halted c → .reset ∉ ts → (∀ bytes, .load bytes ∉ ts) →
    ∃ m' rs, m.runAll cfg ts = .next (m', rs) ∧ m'.machine.status = .halted c ∧
      OnlyChanges [.delayTimer, .soundTimer, .pendingKey, .redrawFlag] m.machine m'.machine

/-- 60_exceptions.md R199: a waiting machine answers every transaction, and without Reset, Load or a key it waits on
for the same register, with only its timers, its key latch and its redraw flag moving (that SetInput(none) ends no wait
is the spec's own decision D17; log entry 9). -/
def Obligations.WaitingUntilAKeyComes : Prop :=
  ∀ (cfg : Config) (ts : List Transaction) (m : Session) (x : RegIdx),
    m.machine.status = .waitingForKey x → .reset ∉ ts → (∀ bytes, .load bytes ∉ ts) →
    (∀ k, .setInput (some k) ∉ ts) →
    ∃ m' rs, m.runAll cfg ts = .next (m', rs) ∧ m'.machine.status = .waitingForKey x ∧
      OnlyChanges [.delayTimer, .soundTimer, .pendingKey, .redrawFlag] m.machine m'.machine
end

