-- ==== Sys2Proof/Laws/State.lean ====
section
/-! SUPPORT. One lemma per field per update, so that no proof unfolds a record update; then what the accessors read
after an update. -/

namespace Sys2Proof.Machine

/-! ### `memWrite` -/

@[simp] theorem State.memWrite_mem (s : State) (a : Nat) (b : Byte) : (s.memWrite a b).mem = s.mem.write (effAddr a) b := rfl
@[simp] theorem State.memWrite_v (s : State) (a : Nat) (b : Byte) : (s.memWrite a b).v = s.v := rfl
@[simp] theorem State.memWrite_i (s : State) (a : Nat) (b : Byte) : (s.memWrite a b).i = s.i := rfl
@[simp] theorem State.memWrite_pc (s : State) (a : Nat) (b : Byte) : (s.memWrite a b).pc = s.pc := rfl
@[simp] theorem State.memWrite_stack (s : State) (a : Nat) (b : Byte) : (s.memWrite a b).stack = s.stack := rfl
@[simp] theorem State.memWrite_sp (s : State) (a : Nat) (b : Byte) : (s.memWrite a b).sp = s.sp := rfl
@[simp] theorem State.memWrite_dt (s : State) (a : Nat) (b : Byte) : (s.memWrite a b).dt = s.dt := rfl
@[simp] theorem State.memWrite_st (s : State) (a : Nat) (b : Byte) : (s.memWrite a b).st = s.st := rfl
@[simp] theorem State.memWrite_px (s : State) (a : Nat) (b : Byte) : (s.memWrite a b).px = s.px := rfl
@[simp] theorem State.memWrite_key (s : State) (a : Nat) (b : Byte) : (s.memWrite a b).key = s.key := rfl
@[simp] theorem State.memWrite_redraw (s : State) (a : Nat) (b : Byte) : (s.memWrite a b).redraw = s.redraw := rfl
@[simp] theorem State.memWrite_status (s : State) (a : Nat) (b : Byte) : (s.memWrite a b).status = s.status := rfl
@[simp] theorem State.memWrite_draws (s : State) (a : Nat) (b : Byte) : (s.memWrite a b).draws = s.draws := rfl

/-! ### `setReg` -/

@[simp] theorem State.setReg_mem (s : State) (x : RegIdx) (b : Byte) : (s.setReg x b).mem = s.mem := rfl
@[simp] theorem State.setReg_v (s : State) (x : RegIdx) (b : Byte) : (s.setReg x b).v = s.v.set x.val b := rfl
@[simp] theorem State.setReg_i (s : State) (x : RegIdx) (b : Byte) : (s.setReg x b).i = s.i := rfl
@[simp] theorem State.setReg_pc (s : State) (x : RegIdx) (b : Byte) : (s.setReg x b).pc = s.pc := rfl
@[simp] theorem State.setReg_stack (s : State) (x : RegIdx) (b : Byte) : (s.setReg x b).stack = s.stack := rfl
@[simp] theorem State.setReg_sp (s : State) (x : RegIdx) (b : Byte) : (s.setReg x b).sp = s.sp := rfl
@[simp] theorem State.setReg_dt (s : State) (x : RegIdx) (b : Byte) : (s.setReg x b).dt = s.dt := rfl
@[simp] theorem State.setReg_st (s : State) (x : RegIdx) (b : Byte) : (s.setReg x b).st = s.st := rfl
@[simp] theorem State.setReg_px (s : State) (x : RegIdx) (b : Byte) : (s.setReg x b).px = s.px := rfl
@[simp] theorem State.setReg_key (s : State) (x : RegIdx) (b : Byte) : (s.setReg x b).key = s.key := rfl
@[simp] theorem State.setReg_redraw (s : State) (x : RegIdx) (b : Byte) : (s.setReg x b).redraw = s.redraw := rfl
@[simp] theorem State.setReg_status (s : State) (x : RegIdx) (b : Byte) : (s.setReg x b).status = s.status := rfl
@[simp] theorem State.setReg_draws (s : State) (x : RegIdx) (b : Byte) : (s.setReg x b).draws = s.draws := rfl

/-! ### `setI` -/

@[simp] theorem State.setI_mem (s : State) (a : Word) : (s.setI a).mem = s.mem := rfl
@[simp] theorem State.setI_v (s : State) (a : Word) : (s.setI a).v = s.v := rfl
@[simp] theorem State.setI_i (s : State) (a : Word) : (s.setI a).i = a := rfl
@[simp] theorem State.setI_pc (s : State) (a : Word) : (s.setI a).pc = s.pc := rfl
@[simp] theorem State.setI_stack (s : State) (a : Word) : (s.setI a).stack = s.stack := rfl
@[simp] theorem State.setI_sp (s : State) (a : Word) : (s.setI a).sp = s.sp := rfl
@[simp] theorem State.setI_dt (s : State) (a : Word) : (s.setI a).dt = s.dt := rfl
@[simp] theorem State.setI_st (s : State) (a : Word) : (s.setI a).st = s.st := rfl
@[simp] theorem State.setI_px (s : State) (a : Word) : (s.setI a).px = s.px := rfl
@[simp] theorem State.setI_key (s : State) (a : Word) : (s.setI a).key = s.key := rfl
@[simp] theorem State.setI_redraw (s : State) (a : Word) : (s.setI a).redraw = s.redraw := rfl
@[simp] theorem State.setI_status (s : State) (a : Word) : (s.setI a).status = s.status := rfl
@[simp] theorem State.setI_draws (s : State) (a : Word) : (s.setI a).draws = s.draws := rfl

/-! ### `setPc` -/

@[simp] theorem State.setPc_mem (s : State) (a : Word) : (s.setPc a).mem = s.mem := rfl
@[simp] theorem State.setPc_v (s : State) (a : Word) : (s.setPc a).v = s.v := rfl
@[simp] theorem State.setPc_i (s : State) (a : Word) : (s.setPc a).i = s.i := rfl
@[simp] theorem State.setPc_pc (s : State) (a : Word) : (s.setPc a).pc = a := rfl
@[simp] theorem State.setPc_stack (s : State) (a : Word) : (s.setPc a).stack = s.stack := rfl
@[simp] theorem State.setPc_sp (s : State) (a : Word) : (s.setPc a).sp = s.sp := rfl
@[simp] theorem State.setPc_dt (s : State) (a : Word) : (s.setPc a).dt = s.dt := rfl
@[simp] theorem State.setPc_st (s : State) (a : Word) : (s.setPc a).st = s.st := rfl
@[simp] theorem State.setPc_px (s : State) (a : Word) : (s.setPc a).px = s.px := rfl
@[simp] theorem State.setPc_key (s : State) (a : Word) : (s.setPc a).key = s.key := rfl
@[simp] theorem State.setPc_redraw (s : State) (a : Word) : (s.setPc a).redraw = s.redraw := rfl
@[simp] theorem State.setPc_status (s : State) (a : Word) : (s.setPc a).status = s.status := rfl
@[simp] theorem State.setPc_draws (s : State) (a : Word) : (s.setPc a).draws = s.draws := rfl

/-! ### `advance` -/

@[simp] theorem State.advance_mem (s : State) : (s.advance).mem = s.mem := rfl
@[simp] theorem State.advance_v (s : State) : (s.advance).v = s.v := rfl
@[simp] theorem State.advance_i (s : State) : (s.advance).i = s.i := rfl
@[simp] theorem State.advance_pc (s : State) : (s.advance).pc = s.pc + 2 := rfl
@[simp] theorem State.advance_stack (s : State) : (s.advance).stack = s.stack := rfl
@[simp] theorem State.advance_sp (s : State) : (s.advance).sp = s.sp := rfl
@[simp] theorem State.advance_dt (s : State) : (s.advance).dt = s.dt := rfl
@[simp] theorem State.advance_st (s : State) : (s.advance).st = s.st := rfl
@[simp] theorem State.advance_px (s : State) : (s.advance).px = s.px := rfl
@[simp] theorem State.advance_key (s : State) : (s.advance).key = s.key := rfl
@[simp] theorem State.advance_redraw (s : State) : (s.advance).redraw = s.redraw := rfl
@[simp] theorem State.advance_status (s : State) : (s.advance).status = s.status := rfl
@[simp] theorem State.advance_draws (s : State) : (s.advance).draws = s.draws := rfl

/-! ### `skipIf` -/

@[simp] theorem State.skipIf_mem (s : State) (c : Bool) : (s.skipIf c).mem = s.mem := rfl
@[simp] theorem State.skipIf_v (s : State) (c : Bool) : (s.skipIf c).v = s.v := rfl
@[simp] theorem State.skipIf_i (s : State) (c : Bool) : (s.skipIf c).i = s.i := rfl
@[simp] theorem State.skipIf_pc (s : State) (c : Bool) : (s.skipIf c).pc = s.pc + if c then 4 else 2 := rfl
@[simp] theorem State.skipIf_stack (s : State) (c : Bool) : (s.skipIf c).stack = s.stack := rfl
@[simp] theorem State.skipIf_sp (s : State) (c : Bool) : (s.skipIf c).sp = s.sp := rfl
@[simp] theorem State.skipIf_dt (s : State) (c : Bool) : (s.skipIf c).dt = s.dt := rfl
@[simp] theorem State.skipIf_st (s : State) (c : Bool) : (s.skipIf c).st = s.st := rfl
@[simp] theorem State.skipIf_px (s : State) (c : Bool) : (s.skipIf c).px = s.px := rfl
@[simp] theorem State.skipIf_key (s : State) (c : Bool) : (s.skipIf c).key = s.key := rfl
@[simp] theorem State.skipIf_redraw (s : State) (c : Bool) : (s.skipIf c).redraw = s.redraw := rfl
@[simp] theorem State.skipIf_status (s : State) (c : Bool) : (s.skipIf c).status = s.status := rfl
@[simp] theorem State.skipIf_draws (s : State) (c : Bool) : (s.skipIf c).draws = s.draws := rfl

/-! ### `setDT` -/

@[simp] theorem State.setDT_mem (s : State) (b : Byte) : (s.setDT b).mem = s.mem := rfl
@[simp] theorem State.setDT_v (s : State) (b : Byte) : (s.setDT b).v = s.v := rfl
@[simp] theorem State.setDT_i (s : State) (b : Byte) : (s.setDT b).i = s.i := rfl
@[simp] theorem State.setDT_pc (s : State) (b : Byte) : (s.setDT b).pc = s.pc := rfl
@[simp] theorem State.setDT_stack (s : State) (b : Byte) : (s.setDT b).stack = s.stack := rfl
@[simp] theorem State.setDT_sp (s : State) (b : Byte) : (s.setDT b).sp = s.sp := rfl
@[simp] theorem State.setDT_dt (s : State) (b : Byte) : (s.setDT b).dt = b := rfl
@[simp] theorem State.setDT_st (s : State) (b : Byte) : (s.setDT b).st = s.st := rfl
@[simp] theorem State.setDT_px (s : State) (b : Byte) : (s.setDT b).px = s.px := rfl
@[simp] theorem State.setDT_key (s : State) (b : Byte) : (s.setDT b).key = s.key := rfl
@[simp] theorem State.setDT_redraw (s : State) (b : Byte) : (s.setDT b).redraw = s.redraw := rfl
@[simp] theorem State.setDT_status (s : State) (b : Byte) : (s.setDT b).status = s.status := rfl
@[simp] theorem State.setDT_draws (s : State) (b : Byte) : (s.setDT b).draws = s.draws := rfl

/-! ### `setST` -/

@[simp] theorem State.setST_mem (s : State) (b : Byte) : (s.setST b).mem = s.mem := rfl
@[simp] theorem State.setST_v (s : State) (b : Byte) : (s.setST b).v = s.v := rfl
@[simp] theorem State.setST_i (s : State) (b : Byte) : (s.setST b).i = s.i := rfl
@[simp] theorem State.setST_pc (s : State) (b : Byte) : (s.setST b).pc = s.pc := rfl
@[simp] theorem State.setST_stack (s : State) (b : Byte) : (s.setST b).stack = s.stack := rfl
@[simp] theorem State.setST_sp (s : State) (b : Byte) : (s.setST b).sp = s.sp := rfl
@[simp] theorem State.setST_dt (s : State) (b : Byte) : (s.setST b).dt = s.dt := rfl
@[simp] theorem State.setST_st (s : State) (b : Byte) : (s.setST b).st = b := rfl
@[simp] theorem State.setST_px (s : State) (b : Byte) : (s.setST b).px = s.px := rfl
@[simp] theorem State.setST_key (s : State) (b : Byte) : (s.setST b).key = s.key := rfl
@[simp] theorem State.setST_redraw (s : State) (b : Byte) : (s.setST b).redraw = s.redraw := rfl
@[simp] theorem State.setST_status (s : State) (b : Byte) : (s.setST b).status = s.status := rfl
@[simp] theorem State.setST_draws (s : State) (b : Byte) : (s.setST b).draws = s.draws := rfl

/-! ### `setPx` -/

@[simp] theorem State.setPx_mem (s : State) (p : PixelBuffer) : (s.setPx p).mem = s.mem := rfl
@[simp] theorem State.setPx_v (s : State) (p : PixelBuffer) : (s.setPx p).v = s.v := rfl
@[simp] theorem State.setPx_i (s : State) (p : PixelBuffer) : (s.setPx p).i = s.i := rfl
@[simp] theorem State.setPx_pc (s : State) (p : PixelBuffer) : (s.setPx p).pc = s.pc := rfl
@[simp] theorem State.setPx_stack (s : State) (p : PixelBuffer) : (s.setPx p).stack = s.stack := rfl
@[simp] theorem State.setPx_sp (s : State) (p : PixelBuffer) : (s.setPx p).sp = s.sp := rfl
@[simp] theorem State.setPx_dt (s : State) (p : PixelBuffer) : (s.setPx p).dt = s.dt := rfl
@[simp] theorem State.setPx_st (s : State) (p : PixelBuffer) : (s.setPx p).st = s.st := rfl
@[simp] theorem State.setPx_px (s : State) (p : PixelBuffer) : (s.setPx p).px = p := rfl
@[simp] theorem State.setPx_key (s : State) (p : PixelBuffer) : (s.setPx p).key = s.key := rfl
@[simp] theorem State.setPx_redraw (s : State) (p : PixelBuffer) : (s.setPx p).redraw = s.redraw := rfl
@[simp] theorem State.setPx_status (s : State) (p : PixelBuffer) : (s.setPx p).status = s.status := rfl
@[simp] theorem State.setPx_draws (s : State) (p : PixelBuffer) : (s.setPx p).draws = s.draws := rfl

/-! ### `setKey` -/

@[simp] theorem State.setKey_mem (s : State) (k : Option KeyCode) : (s.setKey k).mem = s.mem := rfl
@[simp] theorem State.setKey_v (s : State) (k : Option KeyCode) : (s.setKey k).v = s.v := rfl
@[simp] theorem State.setKey_i (s : State) (k : Option KeyCode) : (s.setKey k).i = s.i := rfl
@[simp] theorem State.setKey_pc (s : State) (k : Option KeyCode) : (s.setKey k).pc = s.pc := rfl
@[simp] theorem State.setKey_stack (s : State) (k : Option KeyCode) : (s.setKey k).stack = s.stack := rfl
@[simp] theorem State.setKey_sp (s : State) (k : Option KeyCode) : (s.setKey k).sp = s.sp := rfl
@[simp] theorem State.setKey_dt (s : State) (k : Option KeyCode) : (s.setKey k).dt = s.dt := rfl
@[simp] theorem State.setKey_st (s : State) (k : Option KeyCode) : (s.setKey k).st = s.st := rfl
@[simp] theorem State.setKey_px (s : State) (k : Option KeyCode) : (s.setKey k).px = s.px := rfl
@[simp] theorem State.setKey_key (s : State) (k : Option KeyCode) : (s.setKey k).key = k := rfl
@[simp] theorem State.setKey_redraw (s : State) (k : Option KeyCode) : (s.setKey k).redraw = s.redraw := rfl
@[simp] theorem State.setKey_status (s : State) (k : Option KeyCode) : (s.setKey k).status = s.status := rfl
@[simp] theorem State.setKey_draws (s : State) (k : Option KeyCode) : (s.setKey k).draws = s.draws := rfl

/-! ### `setRedraw` -/

@[simp] theorem State.setRedraw_mem (s : State) (b : Bool) : (s.setRedraw b).mem = s.mem := rfl
@[simp] theorem State.setRedraw_v (s : State) (b : Bool) : (s.setRedraw b).v = s.v := rfl
@[simp] theorem State.setRedraw_i (s : State) (b : Bool) : (s.setRedraw b).i = s.i := rfl
@[simp] theorem State.setRedraw_pc (s : State) (b : Bool) : (s.setRedraw b).pc = s.pc := rfl
@[simp] theorem State.setRedraw_stack (s : State) (b : Bool) : (s.setRedraw b).stack = s.stack := rfl
@[simp] theorem State.setRedraw_sp (s : State) (b : Bool) : (s.setRedraw b).sp = s.sp := rfl
@[simp] theorem State.setRedraw_dt (s : State) (b : Bool) : (s.setRedraw b).dt = s.dt := rfl
@[simp] theorem State.setRedraw_st (s : State) (b : Bool) : (s.setRedraw b).st = s.st := rfl
@[simp] theorem State.setRedraw_px (s : State) (b : Bool) : (s.setRedraw b).px = s.px := rfl
@[simp] theorem State.setRedraw_key (s : State) (b : Bool) : (s.setRedraw b).key = s.key := rfl
@[simp] theorem State.setRedraw_redraw (s : State) (b : Bool) : (s.setRedraw b).redraw = b := rfl
@[simp] theorem State.setRedraw_status (s : State) (b : Bool) : (s.setRedraw b).status = s.status := rfl
@[simp] theorem State.setRedraw_draws (s : State) (b : Bool) : (s.setRedraw b).draws = s.draws := rfl

/-! ### `setStatus` -/

@[simp] theorem State.setStatus_mem (s : State) (t : Status) : (s.setStatus t).mem = s.mem := rfl
@[simp] theorem State.setStatus_v (s : State) (t : Status) : (s.setStatus t).v = s.v := rfl
@[simp] theorem State.setStatus_i (s : State) (t : Status) : (s.setStatus t).i = s.i := rfl
@[simp] theorem State.setStatus_pc (s : State) (t : Status) : (s.setStatus t).pc = s.pc := rfl
@[simp] theorem State.setStatus_stack (s : State) (t : Status) : (s.setStatus t).stack = s.stack := rfl
@[simp] theorem State.setStatus_sp (s : State) (t : Status) : (s.setStatus t).sp = s.sp := rfl
@[simp] theorem State.setStatus_dt (s : State) (t : Status) : (s.setStatus t).dt = s.dt := rfl
@[simp] theorem State.setStatus_st (s : State) (t : Status) : (s.setStatus t).st = s.st := rfl
@[simp] theorem State.setStatus_px (s : State) (t : Status) : (s.setStatus t).px = s.px := rfl
@[simp] theorem State.setStatus_key (s : State) (t : Status) : (s.setStatus t).key = s.key := rfl
@[simp] theorem State.setStatus_redraw (s : State) (t : Status) : (s.setStatus t).redraw = s.redraw := rfl
@[simp] theorem State.setStatus_status (s : State) (t : Status) : (s.setStatus t).status = t := rfl
@[simp] theorem State.setStatus_draws (s : State) (t : Status) : (s.setStatus t).draws = s.draws := rfl

/-! ### `nextDraw` -/

@[simp] theorem State.nextDraw_mem (s : State) : (s.nextDraw).mem = s.mem := rfl
@[simp] theorem State.nextDraw_v (s : State) : (s.nextDraw).v = s.v := rfl
@[simp] theorem State.nextDraw_i (s : State) : (s.nextDraw).i = s.i := rfl
@[simp] theorem State.nextDraw_pc (s : State) : (s.nextDraw).pc = s.pc := rfl
@[simp] theorem State.nextDraw_stack (s : State) : (s.nextDraw).stack = s.stack := rfl
@[simp] theorem State.nextDraw_sp (s : State) : (s.nextDraw).sp = s.sp := rfl
@[simp] theorem State.nextDraw_dt (s : State) : (s.nextDraw).dt = s.dt := rfl
@[simp] theorem State.nextDraw_st (s : State) : (s.nextDraw).st = s.st := rfl
@[simp] theorem State.nextDraw_px (s : State) : (s.nextDraw).px = s.px := rfl
@[simp] theorem State.nextDraw_key (s : State) : (s.nextDraw).key = s.key := rfl
@[simp] theorem State.nextDraw_redraw (s : State) : (s.nextDraw).redraw = s.redraw := rfl
@[simp] theorem State.nextDraw_status (s : State) : (s.nextDraw).status = s.status := rfl
@[simp] theorem State.nextDraw_draws (s : State) : (s.nextDraw).draws = s.draws + 1 := rfl

/-! ### `push` -/

@[simp] theorem State.push_mem (s : State) (a : Word) (h : s.sp.val < 12) : (s.push a h).mem = s.mem := rfl
@[simp] theorem State.push_v (s : State) (a : Word) (h : s.sp.val < 12) : (s.push a h).v = s.v := rfl
@[simp] theorem State.push_i (s : State) (a : Word) (h : s.sp.val < 12) : (s.push a h).i = s.i := rfl
@[simp] theorem State.push_pc (s : State) (a : Word) (h : s.sp.val < 12) : (s.push a h).pc = s.pc := rfl
@[simp] theorem State.push_stack (s : State) (a : Word) (h : s.sp.val < 12) : (s.push a h).stack = s.stack.set s.sp.val a := rfl
@[simp] theorem State.push_sp (s : State) (a : Word) (h : s.sp.val < 12) : (s.push a h).sp = ⟨s.sp.val + 1, by omega⟩ := rfl
@[simp] theorem State.push_dt (s : State) (a : Word) (h : s.sp.val < 12) : (s.push a h).dt = s.dt := rfl
@[simp] theorem State.push_st (s : State) (a : Word) (h : s.sp.val < 12) : (s.push a h).st = s.st := rfl
@[simp] theorem State.push_px (s : State) (a : Word) (h : s.sp.val < 12) : (s.push a h).px = s.px := rfl
@[simp] theorem State.push_key (s : State) (a : Word) (h : s.sp.val < 12) : (s.push a h).key = s.key := rfl
@[simp] theorem State.push_redraw (s : State) (a : Word) (h : s.sp.val < 12) : (s.push a h).redraw = s.redraw := rfl
@[simp] theorem State.push_status (s : State) (a : Word) (h : s.sp.val < 12) : (s.push a h).status = s.status := rfl
@[simp] theorem State.push_draws (s : State) (a : Word) (h : s.sp.val < 12) : (s.push a h).draws = s.draws := rfl

/-! ### `raiseFault` -/

@[simp] theorem State.raiseFault_mem (s : State) (c : HaltCause) : (s.raiseFault c).mem = s.mem := rfl
@[simp] theorem State.raiseFault_v (s : State) (c : HaltCause) : (s.raiseFault c).v = s.v := rfl
@[simp] theorem State.raiseFault_i (s : State) (c : HaltCause) : (s.raiseFault c).i = s.i := rfl
@[simp] theorem State.raiseFault_pc (s : State) (c : HaltCause) : (s.raiseFault c).pc = s.pc := rfl
@[simp] theorem State.raiseFault_stack (s : State) (c : HaltCause) : (s.raiseFault c).stack = s.stack := rfl
@[simp] theorem State.raiseFault_sp (s : State) (c : HaltCause) : (s.raiseFault c).sp = s.sp := rfl
@[simp] theorem State.raiseFault_dt (s : State) (c : HaltCause) : (s.raiseFault c).dt = s.dt := rfl
@[simp] theorem State.raiseFault_st (s : State) (c : HaltCause) : (s.raiseFault c).st = s.st := rfl
@[simp] theorem State.raiseFault_px (s : State) (c : HaltCause) : (s.raiseFault c).px = s.px := rfl
@[simp] theorem State.raiseFault_key (s : State) (c : HaltCause) : (s.raiseFault c).key = s.key := rfl
@[simp] theorem State.raiseFault_redraw (s : State) (c : HaltCause) : (s.raiseFault c).redraw = s.redraw := rfl
@[simp] theorem State.raiseFault_status (s : State) (c : HaltCause) : (s.raiseFault c).status = .halted c := rfl
@[simp] theorem State.raiseFault_draws (s : State) (c : HaltCause) : (s.raiseFault c).draws = s.draws := rfl

/-! ### What the accessors read after an update of something else -/

@[simp] theorem State.reg_memWrite (s : State) (a : Nat) (b : Byte) (j : RegIdx) : (s.memWrite a b).reg j = s.reg j := rfl
@[simp] theorem State.slot_memWrite (s : State) (a : Nat) (b : Byte) (k' : Nat) (hk : 1 ≤ k' ∧ k' ≤ 12) :
    (s.memWrite a b).slot k' hk = s.slot k' hk := rfl
@[simp] theorem State.memRead_setReg (s : State) (x : RegIdx) (b : Byte) (ea : Nat) : (s.setReg x b).memRead ea = s.memRead ea := rfl
@[simp] theorem State.slot_setReg (s : State) (x : RegIdx) (b : Byte) (k' : Nat) (hk : 1 ≤ k' ∧ k' ≤ 12) :
    (s.setReg x b).slot k' hk = s.slot k' hk := rfl
@[simp] theorem State.reg_setI (s : State) (a : Word) (j : RegIdx) : (s.setI a).reg j = s.reg j := rfl
@[simp] theorem State.memRead_setI (s : State) (w : Word) (ea : Nat) : (s.setI w).memRead ea = s.memRead ea := rfl
@[simp] theorem State.slot_setI (s : State) (a : Word) (k' : Nat) (hk : 1 ≤ k' ∧ k' ≤ 12) :
    (s.setI a).slot k' hk = s.slot k' hk := rfl
@[simp] theorem State.reg_setPc (s : State) (a : Word) (j : RegIdx) : (s.setPc a).reg j = s.reg j := rfl
@[simp] theorem State.memRead_setPc (s : State) (w : Word) (ea : Nat) : (s.setPc w).memRead ea = s.memRead ea := rfl
@[simp] theorem State.slot_setPc (s : State) (a : Word) (k' : Nat) (hk : 1 ≤ k' ∧ k' ≤ 12) :
    (s.setPc a).slot k' hk = s.slot k' hk := rfl
@[simp] theorem State.reg_advance (s : State) (j : RegIdx) : (s.advance).reg j = s.reg j := rfl
@[simp] theorem State.memRead_advance (s : State) (ea : Nat) : (s.advance).memRead ea = s.memRead ea := rfl
@[simp] theorem State.slot_advance (s : State) (k' : Nat) (hk : 1 ≤ k' ∧ k' ≤ 12) :
    (s.advance).slot k' hk = s.slot k' hk := rfl
@[simp] theorem State.reg_skipIf (s : State) (c : Bool) (j : RegIdx) : (s.skipIf c).reg j = s.reg j := rfl
@[simp] theorem State.memRead_skipIf (s : State) (c : Bool) (ea : Nat) : (s.skipIf c).memRead ea = s.memRead ea := rfl
@[simp] theorem State.slot_skipIf (s : State) (c : Bool) (k' : Nat) (hk : 1 ≤ k' ∧ k' ≤ 12) :
    (s.skipIf c).slot k' hk = s.slot k' hk := rfl
@[simp] theorem State.reg_setDT (s : State) (b : Byte) (j : RegIdx) : (s.setDT b).reg j = s.reg j := rfl
@[simp] theorem State.memRead_setDT (s : State) (b : Byte) (ea : Nat) : (s.setDT b).memRead ea = s.memRead ea := rfl
@[simp] theorem State.slot_setDT (s : State) (b : Byte) (k' : Nat) (hk : 1 ≤ k' ∧ k' ≤ 12) :
    (s.setDT b).slot k' hk = s.slot k' hk := rfl
@[simp] theorem State.reg_setST (s : State) (b : Byte) (j : RegIdx) : (s.setST b).reg j = s.reg j := rfl
@[simp] theorem State.memRead_setST (s : State) (b : Byte) (ea : Nat) : (s.setST b).memRead ea = s.memRead ea := rfl
@[simp] theorem State.slot_setST (s : State) (b : Byte) (k' : Nat) (hk : 1 ≤ k' ∧ k' ≤ 12) :
    (s.setST b).slot k' hk = s.slot k' hk := rfl
@[simp] theorem State.reg_setPx (s : State) (p : PixelBuffer) (j : RegIdx) : (s.setPx p).reg j = s.reg j := rfl
@[simp] theorem State.memRead_setPx (s : State) (p : PixelBuffer) (ea : Nat) : (s.setPx p).memRead ea = s.memRead ea := rfl
@[simp] theorem State.slot_setPx (s : State) (p : PixelBuffer) (k' : Nat) (hk : 1 ≤ k' ∧ k' ≤ 12) :
    (s.setPx p).slot k' hk = s.slot k' hk := rfl
@[simp] theorem State.reg_setKey (s : State) (k : Option KeyCode) (j : RegIdx) : (s.setKey k).reg j = s.reg j := rfl
@[simp] theorem State.memRead_setKey (s : State) (k : Option KeyCode) (ea : Nat) : (s.setKey k).memRead ea = s.memRead ea := rfl
@[simp] theorem State.slot_setKey (s : State) (k : Option KeyCode) (k' : Nat) (hk : 1 ≤ k' ∧ k' ≤ 12) :
    (s.setKey k).slot k' hk = s.slot k' hk := rfl
@[simp] theorem State.reg_setRedraw (s : State) (b : Bool) (j : RegIdx) : (s.setRedraw b).reg j = s.reg j := rfl
@[simp] theorem State.memRead_setRedraw (s : State) (b : Bool) (ea : Nat) : (s.setRedraw b).memRead ea = s.memRead ea := rfl
@[simp] theorem State.slot_setRedraw (s : State) (b : Bool) (k' : Nat) (hk : 1 ≤ k' ∧ k' ≤ 12) :
    (s.setRedraw b).slot k' hk = s.slot k' hk := rfl
@[simp] theorem State.reg_setStatus (s : State) (t : Status) (j : RegIdx) : (s.setStatus t).reg j = s.reg j := rfl
@[simp] theorem State.memRead_setStatus (s : State) (t : Status) (ea : Nat) : (s.setStatus t).memRead ea = s.memRead ea := rfl
@[simp] theorem State.slot_setStatus (s : State) (t : Status) (k' : Nat) (hk : 1 ≤ k' ∧ k' ≤ 12) :
    (s.setStatus t).slot k' hk = s.slot k' hk := rfl
@[simp] theorem State.reg_nextDraw (s : State) (j : RegIdx) : (s.nextDraw).reg j = s.reg j := rfl
@[simp] theorem State.memRead_nextDraw (s : State) (ea : Nat) : (s.nextDraw).memRead ea = s.memRead ea := rfl
@[simp] theorem State.slot_nextDraw (s : State) (k' : Nat) (hk : 1 ≤ k' ∧ k' ≤ 12) :
    (s.nextDraw).slot k' hk = s.slot k' hk := rfl
@[simp] theorem State.reg_push (s : State) (a : Word) (h : s.sp.val < 12) (j : RegIdx) : (s.push a h).reg j = s.reg j := rfl
@[simp] theorem State.memRead_push (s : State) (w : Word) (h : s.sp.val < 12) (ea : Nat) : (s.push w h).memRead ea = s.memRead ea := rfl
@[simp] theorem State.reg_raiseFault (s : State) (c : HaltCause) (j : RegIdx) : (s.raiseFault c).reg j = s.reg j := rfl
@[simp] theorem State.memRead_raiseFault (s : State) (c : HaltCause) (ea : Nat) : (s.raiseFault c).memRead ea = s.memRead ea := rfl
@[simp] theorem State.slot_raiseFault (s : State) (c : HaltCause) (k' : Nat) (hk : 1 ≤ k' ∧ k' ≤ 12) :
    (s.raiseFault c).slot k' hk = s.slot k' hk := rfl

/-! ### `pop` -/

@[simp] theorem State.pop_mem (s : State) (h : s.sp.val ≠ 0) : (s.pop h).2.mem = s.mem := rfl
@[simp] theorem State.pop_v (s : State) (h : s.sp.val ≠ 0) : (s.pop h).2.v = s.v := rfl
@[simp] theorem State.pop_i (s : State) (h : s.sp.val ≠ 0) : (s.pop h).2.i = s.i := rfl
@[simp] theorem State.pop_pc (s : State) (h : s.sp.val ≠ 0) : (s.pop h).2.pc = s.pc := rfl
@[simp] theorem State.pop_stack (s : State) (h : s.sp.val ≠ 0) : (s.pop h).2.stack = s.stack := rfl
@[simp] theorem State.pop_sp (s : State) (h : s.sp.val ≠ 0) : (s.pop h).2.sp = ⟨s.sp.val - 1, by omega⟩ := rfl
@[simp] theorem State.pop_dt (s : State) (h : s.sp.val ≠ 0) : (s.pop h).2.dt = s.dt := rfl
@[simp] theorem State.pop_st (s : State) (h : s.sp.val ≠ 0) : (s.pop h).2.st = s.st := rfl
@[simp] theorem State.pop_px (s : State) (h : s.sp.val ≠ 0) : (s.pop h).2.px = s.px := rfl
@[simp] theorem State.pop_key (s : State) (h : s.sp.val ≠ 0) : (s.pop h).2.key = s.key := rfl
@[simp] theorem State.pop_redraw (s : State) (h : s.sp.val ≠ 0) : (s.pop h).2.redraw = s.redraw := rfl
@[simp] theorem State.pop_status (s : State) (h : s.sp.val ≠ 0) : (s.pop h).2.status = s.status := rfl
@[simp] theorem State.pop_draws (s : State) (h : s.sp.val ≠ 0) : (s.pop h).2.draws = s.draws := rfl
@[simp] theorem State.reg_pop (s : State) (h : s.sp.val ≠ 0) (j : RegIdx) : (s.pop h).2.reg j = s.reg j := rfl
@[simp] theorem State.memRead_pop (s : State) (h : s.sp.val ≠ 0) (ea : Nat) : (s.pop h).2.memRead ea = s.memRead ea := rfl
@[simp] theorem State.slot_pop (s : State) (h : s.sp.val ≠ 0) (k : Nat) (hk : 1 ≤ k ∧ k ≤ 12) :
    (s.pop h).2.slot k hk = s.slot k hk := rfl
@[simp] theorem State.pop_value (s : State) (h : s.sp.val ≠ 0) :
    (s.pop h).1 = s.slot s.sp.val ⟨by omega, by omega⟩ := rfl

/-! ### Registers -/

/-- A register read after a register write. -/
@[simp] theorem State.reg_setReg (s : State) (x y : RegIdx) (b : Byte) :
    (s.setReg x b).reg y = if y = x then b else s.reg y := by
  simp only [State.reg, State.setReg_v, Vector.getElem_set, Fin.ext_iff, eq_comm]

/-- Two states with the same register file read the same registers. -/
theorem State.reg_congr {s t : State} (h : t.v = s.v) (k : RegIdx) : t.reg k = s.reg k := by
  simp only [State.reg, h]

/-- Two states with the same cells read the same bytes. -/
theorem State.memRead_congr {s t : State} (h : t.mem = s.mem) (a : Nat) : t.memRead a = s.memRead a := by
  simp only [State.memRead, h]

/-- Two states with the same slots read the same slots. -/
theorem State.slot_congr {s t : State} (h : t.stack = s.stack) (k : Nat) (hk : 1 ≤ k ∧ k ≤ 12) :
    t.slot k hk = s.slot k hk := by
  simp only [State.slot, h]

/-- A slot read after a push: the new top slot holds the pushed address. -/
@[simp] theorem State.slot_push (s : State) (a : Word) (h : s.sp.val < 12) (k : Nat) (hk : 1 ≤ k ∧ k ≤ 12) :
    (s.push a h).slot k hk = if k = s.sp.val + 1 then a else s.slot k hk := by
  simp only [State.slot, State.push_stack, Vector.getElem_set]
  split <;> split <;> first | rfl | omega

/-! ### The two ways to end with a result -/

/-- `result` is a register write and an advance. -/
theorem State.result_eq (s : State) (x : RegIdx) (r : Byte) : s.result x r = (s.setReg x r).advance := rfl

/-- `resultAndFlag` is the result write, then the flag write, then an advance. -/
theorem State.resultAndFlag_eq (s : State) (x : RegIdx) (r f : Byte) :
    s.resultAndFlag x r f = ((s.setReg x r).setReg vf f).advance := rfl

@[simp] theorem State.result_mem (s : State) (x : RegIdx) (r : Byte) : (s.result x r).mem = s.mem := rfl
@[simp] theorem State.result_i (s : State) (x : RegIdx) (r : Byte) : (s.result x r).i = s.i := rfl
@[simp] theorem State.result_pc (s : State) (x : RegIdx) (r : Byte) : (s.result x r).pc = s.pc + 2 := rfl
@[simp] theorem State.result_stack (s : State) (x : RegIdx) (r : Byte) : (s.result x r).stack = s.stack := rfl
@[simp] theorem State.result_sp (s : State) (x : RegIdx) (r : Byte) : (s.result x r).sp = s.sp := rfl
@[simp] theorem State.result_dt (s : State) (x : RegIdx) (r : Byte) : (s.result x r).dt = s.dt := rfl
@[simp] theorem State.result_st (s : State) (x : RegIdx) (r : Byte) : (s.result x r).st = s.st := rfl
@[simp] theorem State.result_px (s : State) (x : RegIdx) (r : Byte) : (s.result x r).px = s.px := rfl
@[simp] theorem State.result_key (s : State) (x : RegIdx) (r : Byte) : (s.result x r).key = s.key := rfl
@[simp] theorem State.result_redraw (s : State) (x : RegIdx) (r : Byte) : (s.result x r).redraw = s.redraw := rfl
@[simp] theorem State.result_status (s : State) (x : RegIdx) (r : Byte) : (s.result x r).status = s.status := rfl
@[simp] theorem State.result_draws (s : State) (x : RegIdx) (r : Byte) : (s.result x r).draws = s.draws := rfl
@[simp] theorem State.resultAndFlag_mem (s : State) (x : RegIdx) (r f : Byte) : (s.resultAndFlag x r f).mem = s.mem := rfl
@[simp] theorem State.resultAndFlag_i (s : State) (x : RegIdx) (r f : Byte) : (s.resultAndFlag x r f).i = s.i := rfl
@[simp] theorem State.resultAndFlag_pc (s : State) (x : RegIdx) (r f : Byte) : (s.resultAndFlag x r f).pc = s.pc + 2 := rfl
@[simp] theorem State.resultAndFlag_stack (s : State) (x : RegIdx) (r f : Byte) : (s.resultAndFlag x r f).stack = s.stack := rfl
@[simp] theorem State.resultAndFlag_sp (s : State) (x : RegIdx) (r f : Byte) : (s.resultAndFlag x r f).sp = s.sp := rfl
@[simp] theorem State.resultAndFlag_dt (s : State) (x : RegIdx) (r f : Byte) : (s.resultAndFlag x r f).dt = s.dt := rfl
@[simp] theorem State.resultAndFlag_st (s : State) (x : RegIdx) (r f : Byte) : (s.resultAndFlag x r f).st = s.st := rfl
@[simp] theorem State.resultAndFlag_px (s : State) (x : RegIdx) (r f : Byte) : (s.resultAndFlag x r f).px = s.px := rfl
@[simp] theorem State.resultAndFlag_key (s : State) (x : RegIdx) (r f : Byte) : (s.resultAndFlag x r f).key = s.key := rfl
@[simp] theorem State.resultAndFlag_redraw (s : State) (x : RegIdx) (r f : Byte) : (s.resultAndFlag x r f).redraw = s.redraw := rfl
@[simp] theorem State.resultAndFlag_status (s : State) (x : RegIdx) (r f : Byte) : (s.resultAndFlag x r f).status = s.status := rfl
@[simp] theorem State.resultAndFlag_draws (s : State) (x : RegIdx) (r f : Byte) : (s.resultAndFlag x r f).draws = s.draws := rfl
@[simp] theorem State.memRead_result (s : State) (x : RegIdx) (r : Byte) (ea : Nat) :
    (s.result x r).memRead ea = s.memRead ea := rfl
@[simp] theorem State.slot_result (s : State) (x : RegIdx) (r : Byte) (k : Nat) (hk : 1 ≤ k ∧ k ≤ 12) :
    (s.result x r).slot k hk = s.slot k hk := rfl
@[simp] theorem State.memRead_resultAndFlag (s : State) (x : RegIdx) (r f : Byte) (ea : Nat) :
    (s.resultAndFlag x r f).memRead ea = s.memRead ea := rfl
@[simp] theorem State.slot_resultAndFlag (s : State) (x : RegIdx) (r f : Byte) (k : Nat) (hk : 1 ≤ k ∧ k ≤ 12) :
    (s.resultAndFlag x r f).slot k hk = s.slot k hk := rfl

/-- The registers after `result`: the destination and nothing else. -/
@[simp] theorem State.reg_result (s : State) (x k : RegIdx) (r : Byte) :
    (s.result x r).reg k = if k = x then r else s.reg k :=
  (State.reg_congr rfl k).trans (State.reg_setReg s x k r)

/-- The registers after `resultAndFlag`: VF is the flag even when it is the destination (41_alu.md R133). -/
@[simp] theorem State.reg_resultAndFlag (s : State) (x k : RegIdx) (r f : Byte) :
    (s.resultAndFlag x r f).reg k = if k = vf then f else if k = x then r else s.reg k :=
  (State.reg_congr (s := (s.setReg x r).setReg vf f) rfl k).trans (by simp)

/-- A frame from plain equalities: every component outside the list is equal. -/
theorem onlyChanges_of {cs : List Component} {s t : State}
    (mem : .memory ∈ cs ∨ t.mem = s.mem) (regs : .registers ∈ cs ∨ t.v = s.v)
    (i : .addressRegister ∈ cs ∨ t.i = s.i) (pc : .programCounter ∈ cs ∨ t.pc = s.pc)
    (stack : .stackSlots ∈ cs ∨ t.stack = s.stack) (sp : .stackPointer ∈ cs ∨ t.sp = s.sp)
    (dt : .delayTimer ∈ cs ∨ t.dt = s.dt) (st : .soundTimer ∈ cs ∨ t.st = s.st)
    (px : .pixels ∈ cs ∨ t.px = s.px) (key : .pendingKey ∈ cs ∨ t.key = s.key)
    (redraw : .redrawFlag ∈ cs ∨ t.redraw = s.redraw) (status : .runStatus ∈ cs ∨ t.status = s.status)
    (draws : .drawCounter ∈ cs ∨ t.draws = s.draws) : OnlyChanges cs s t := by
  intro c hc
  cases c with
  | memory => exact fun a => State.memRead_congr (mem.resolve_left hc) a
  | registers => exact fun k => State.reg_congr (regs.resolve_left hc) k
  | addressRegister => exact i.resolve_left hc
  | programCounter => exact pc.resolve_left hc
  | stackSlots => exact fun k h => State.slot_congr (stack.resolve_left hc) k h
  | stackPointer => exact sp.resolve_left hc
  | delayTimer => exact dt.resolve_left hc
  | soundTimer => exact st.resolve_left hc
  | pixels => exact fun r c => by rw [px.resolve_left hc]
  | pendingKey => exact key.resolve_left hc
  | redrawFlag => exact redraw.resolve_left hc
  | runStatus => exact status.resolve_left hc
  | drawCounter => exact draws.resolve_left hc

end Sys2Proof.Machine
end

