-- ==== Sys2Proof/Laws/Memory.lean ====
section
/-! SUPPORT. Memory: what a byte reads as after a write, and that every memory operation keeps the canonical form. -/

namespace Sys2Proof.Machine

/-- The reduction of an address, as arithmetic. -/
@[simp] theorem effAddr_eq (a : Nat) : effAddr a = a % 4096 := rfl

/-! ### Reading after listing and unlisting -/

theorem Memory.lookup_insert (m : Memory) (a c : Nat) (b : Byte) :
    Memory.lookup (Memory.insert a b m) c = if a = c then some b else Memory.lookup m c := by
  induction m with
  | nil => rfl
  | cons p m ih =>
    obtain ⟨k, d⟩ := p
    unfold Memory.insert
    split
    · rfl
    · split
      · subst_vars
        simp only [Memory.lookup]
        split <;> rfl
      · simp only [Memory.lookup, ih]
        split <;> split <;> first | rfl | omega

theorem Memory.lookup_erase (m : Memory) (a c : Nat) :
    Memory.lookup (Memory.erase a m) c = if a = c then none else Memory.lookup m c := by
  induction m with
  | nil => simp [Memory.erase, Memory.lookup]
  | cons p m ih =>
    obtain ⟨k, d⟩ := p
    unfold Memory.erase at ih ⊢
    by_cases hk : k = a
    · subst hk
      simp only [List.filter, ne_eq, not_true_eq_false, decide_false, ih, Memory.lookup]
      split <;> rfl
    · simp only [List.filter, ne_eq, hk, not_false_eq_true, decide_true, Memory.lookup, ih]
      split <;> split <;> first | rfl | omega

/-- Reading after writing: the byte written at its address, everything else as before. -/
theorem Memory.read_write (m : Memory) (a c : Nat) (b : Byte) :
    (m.write a b).read c = if a = c then b else m.read c := by
  unfold Memory.write Memory.read
  split
  · rw [Memory.lookup_erase]
    split
    · subst_vars; rfl
    · rfl
  · rw [Memory.lookup_insert]
    split <;> rfl

/-! ### The canonical form -/

theorem Memory.mem_insert {m : Memory} {a : Nat} {b : Byte} {p : Host.Cell}
    (h : p ∈ Memory.insert a b m) : p = (a, b) ∨ p ∈ m := by
  induction m with
  | nil => simpa [Memory.insert] using h
  | cons q m ih =>
    obtain ⟨k, d⟩ := q
    unfold Memory.insert at h
    split at h
    · simpa using h
    · split at h
      · rcases List.mem_cons.1 h with h | h
        · exact .inl h
        · exact .inr (List.mem_cons_of_mem _ h)
      · rcases List.mem_cons.1 h with h | h
        · exact .inr (h ▸ List.mem_cons_self)
        · exact (ih h).imp id (List.mem_cons_of_mem _)

theorem Memory.pairwise_insert {m : Memory} (a : Nat) (b : Byte)
    (h : m.Pairwise fun p q => p.1 < q.1) : (Memory.insert a b m).Pairwise fun p q => p.1 < q.1 := by
  induction m with
  | nil => simp [Memory.insert]
  | cons q m ih =>
    obtain ⟨k, d⟩ := q
    obtain ⟨hq, hm⟩ := List.pairwise_cons.1 h
    unfold Memory.insert
    split
    · next hlt =>
      refine List.pairwise_cons.2 ⟨fun p hp => ?_, h⟩
      rcases List.mem_cons.1 hp with rfl | hp
      · exact hlt
      · exact lt_trans hlt (hq p hp)
    · split
      · subst_vars
        exact List.pairwise_cons.2 ⟨hq, hm⟩
      · refine List.pairwise_cons.2 ⟨fun p hp => ?_, ih hm⟩
        rcases Memory.mem_insert hp with rfl | hp
        · show k < a; omega
        · exact hq p hp

/-- A write keeps the canonical form, at an address inside memory. -/
theorem Memory.wf_write {m : Memory} {a : Nat} (b : Byte) (ha : a < 4096) (h : m.wf) : (m.write a b).wf := by
  unfold Memory.write
  split
  · exact ⟨h.1.filter _, fun p hp => h.2 p (List.mem_of_mem_filter hp)⟩
  · next hb =>
    refine ⟨Memory.pairwise_insert a b h.1, fun p hp => ?_⟩
    rcases Memory.mem_insert hp with rfl | hp
    · exact ⟨ha, hb⟩
    · exact h.2 p hp

/-- `MemWrite` keeps the canonical form at every address. -/
theorem State.wf_memWrite {s : State} (a : Nat) (b : Byte) (h : s.mem.wf) : (s.memWrite a b).mem.wf :=
  Memory.wf_write b (Nat.mod_lt _ (by decide)) h

/-- Storing a list of bytes keeps the canonical form. -/
theorem State.wf_memWriteBytes {s : State} (a : Nat) (bs : List Byte) (h : s.mem.wf) :
    (s.memWriteBytes a bs).mem.wf := by
  induction bs generalizing s a with
  | nil => exact h
  | cons b bs ih => exact ih _ (State.wf_memWrite a b h)

/-- The memory of the reset state is canonical. -/
theorem State.wf_reset : State.reset.mem.wf := by decide

/-! ### Storing a list of bytes -/

/-- Storing bytes changes memory only. -/
theorem State.memWriteBytes_eq (s : State) (a : Nat) (bs : List Byte) :
    s.memWriteBytes a bs = { s with mem := (s.memWriteBytes a bs).mem } := by
  induction bs generalizing s a with
  | nil => rfl
  | cons b bs ih => exact (ih (s.memWrite a b) (a + 1)).trans rfl

/-- What memory holds after bytes are stored depends on nothing but what it held before. -/
theorem State.mem_memWriteBytes_congr {s t : State} (h : s.mem = t.mem) (a : Nat) (bs : List Byte) :
    (s.memWriteBytes a bs).mem = (t.memWriteBytes a bs).mem := by
  induction bs generalizing s t a with
  | nil => exact h
  | cons b bs ih => exact ih (by simp [State.memWrite, h]) (a + 1)

end Sys2Proof.Machine
end

