-- ==== Sys2Proof/Laws/Blocks.lean ====
section
/-! SUPPORT. The block store and load (42_address_memory.md R144, R145): what each loop leaves, byte by byte and
register by register. -/

namespace Sys2Proof.Machine

/-- `MemRead` after `MemWrite` (20_memory.md R53), addresses reduced modulo 4096. -/
theorem State.memRead_memWrite (s : State) (a c : Nat) (b : Byte) :
    (s.memWrite a b).memRead c = if a % 4096 = c % 4096 then b else s.memRead c := by
  simp only [State.memRead, State.memWrite_mem, effAddr_eq, Memory.read_write]

/-- A byte at `I` read after a byte at `I` was written. -/
theorem State.memRead_dataWrite (s : State) (k c : Nat) (b : Byte) :
    (s.dataWrite k b).memRead c = if (s.i.toNat + k) % 4096 = c % 4096 then b else s.memRead c :=
  State.memRead_memWrite s _ c b

/-- Writing a byte at `I` changes memory only. -/
theorem State.dataWrite_eq (s : State) (k : Nat) (b : Byte) :
    s.dataWrite k b = { s with mem := (s.dataWrite k b).mem } := rfl

/-! ### The fields a byte at `I` leaves -/

@[simp] theorem State.dataWrite_v (s : State) (k : Nat) (b : Byte) : (s.dataWrite k b).v = s.v := rfl
@[simp] theorem State.dataWrite_i (s : State) (k : Nat) (b : Byte) : (s.dataWrite k b).i = s.i := rfl
@[simp] theorem State.dataWrite_pc (s : State) (k : Nat) (b : Byte) : (s.dataWrite k b).pc = s.pc := rfl
@[simp] theorem State.dataWrite_stack (s : State) (k : Nat) (b : Byte) : (s.dataWrite k b).stack = s.stack := rfl
@[simp] theorem State.dataWrite_sp (s : State) (k : Nat) (b : Byte) : (s.dataWrite k b).sp = s.sp := rfl
@[simp] theorem State.dataWrite_dt (s : State) (k : Nat) (b : Byte) : (s.dataWrite k b).dt = s.dt := rfl
@[simp] theorem State.dataWrite_st (s : State) (k : Nat) (b : Byte) : (s.dataWrite k b).st = s.st := rfl
@[simp] theorem State.dataWrite_px (s : State) (k : Nat) (b : Byte) : (s.dataWrite k b).px = s.px := rfl
@[simp] theorem State.dataWrite_key (s : State) (k : Nat) (b : Byte) : (s.dataWrite k b).key = s.key := rfl
@[simp] theorem State.dataWrite_redraw (s : State) (k : Nat) (b : Byte) : (s.dataWrite k b).redraw = s.redraw := rfl
@[simp] theorem State.dataWrite_status (s : State) (k : Nat) (b : Byte) : (s.dataWrite k b).status = s.status := rfl
@[simp] theorem State.dataWrite_draws (s : State) (k : Nat) (b : Byte) : (s.dataWrite k b).draws = s.draws := rfl
@[simp] theorem State.reg_dataWrite (s : State) (k : Nat) (b : Byte) (j : RegIdx) :
    (s.dataWrite k b).reg j = s.reg j := rfl
@[simp] theorem State.slot_dataWrite (s : State) (k : Nat) (b : Byte) (n : Nat) (hn : 1 ≤ n ∧ n ≤ 12) :
    (s.dataWrite k b).slot n hn = s.slot n hn := rfl

/-- The block store changes memory only. -/
theorem State.storeBlock_eq (s : State) (k : Nat) : s.storeBlock k = { s with mem := (s.storeBlock k).mem } := by
  induction k with
  | zero => rfl
  | succ k ih => rw [State.storeBlock, State.dataWrite_eq, ih]

/-- The block store leaves `I` (R146). -/
@[simp] theorem State.storeBlock_i (s : State) (k : Nat) : (s.storeBlock k).i = s.i := by
  rw [State.storeBlock_eq]

/-! ### The fields the block store leaves -/

@[simp] theorem State.storeBlock_v (s : State) (k : Nat) : (s.storeBlock k).v = s.v := by rw [State.storeBlock_eq]
@[simp] theorem State.storeBlock_pc (s : State) (k : Nat) : (s.storeBlock k).pc = s.pc := by rw [State.storeBlock_eq]
@[simp] theorem State.storeBlock_stack (s : State) (k : Nat) : (s.storeBlock k).stack = s.stack := by rw [State.storeBlock_eq]
@[simp] theorem State.storeBlock_sp (s : State) (k : Nat) : (s.storeBlock k).sp = s.sp := by rw [State.storeBlock_eq]
@[simp] theorem State.storeBlock_dt (s : State) (k : Nat) : (s.storeBlock k).dt = s.dt := by rw [State.storeBlock_eq]
@[simp] theorem State.storeBlock_st (s : State) (k : Nat) : (s.storeBlock k).st = s.st := by rw [State.storeBlock_eq]
@[simp] theorem State.storeBlock_px (s : State) (k : Nat) : (s.storeBlock k).px = s.px := by rw [State.storeBlock_eq]
@[simp] theorem State.storeBlock_key (s : State) (k : Nat) : (s.storeBlock k).key = s.key := by rw [State.storeBlock_eq]
@[simp] theorem State.storeBlock_redraw (s : State) (k : Nat) : (s.storeBlock k).redraw = s.redraw := by rw [State.storeBlock_eq]
@[simp] theorem State.storeBlock_status (s : State) (k : Nat) : (s.storeBlock k).status = s.status := by rw [State.storeBlock_eq]
@[simp] theorem State.storeBlock_draws (s : State) (k : Nat) : (s.storeBlock k).draws = s.draws := by rw [State.storeBlock_eq]
@[simp] theorem State.reg_storeBlock (s : State) (k : Nat) (j : RegIdx) : (s.storeBlock k).reg j = s.reg j :=
  State.reg_congr (State.storeBlock_v s k) j
@[simp] theorem State.slot_storeBlock (s : State) (k n : Nat) (hn : 1 ≤ n ∧ n ≤ 12) :
    (s.storeBlock k).slot n hn = s.slot n hn := State.slot_congr (State.storeBlock_stack s k) n hn

/-- One more register stored. -/
theorem State.memRead_storeBlock_succ (s : State) (k c : Nat) :
    (s.storeBlock (k + 1)).memRead c =
      if (s.i.toNat + k) % 4096 = c % 4096 then s.reg (Fin.ofNat 16 k) else (s.storeBlock k).memRead c := by
  rw [State.storeBlock, State.memRead_dataWrite, State.storeBlock_i]

/-- The block store leaves every byte outside the `k` bytes at `I`. -/
theorem State.memRead_storeBlock_of_ne (s : State) (k c : Nat) (h : ∀ j < k, (s.i.toNat + j) % 4096 ≠ c % 4096) :
    (s.storeBlock k).memRead c = s.memRead c := by
  induction k with
  | zero => rfl
  | succ k ih =>
    rw [State.memRead_storeBlock_succ, if_neg (h k (by omega)), ih fun j hj => h j (by omega)]

/-- The block store leaves register `j` at `I + j`; up to 4096 bytes do not overlap. -/
theorem State.memRead_storeBlock (s : State) (k j : Nat) (hj : j < k) (hk : k ≤ 4096) :
    (s.storeBlock k).memRead (s.i.toNat + j) = s.reg (Fin.ofNat 16 j) := by
  induction k with
  | zero => omega
  | succ k ih =>
    rw [State.memRead_storeBlock_succ]
    by_cases h : j = k
    · subst h; rw [if_pos rfl]
    · rw [if_neg (by omega), ih (by omega) (by omega)]

/-- The block store keeps the canonical form. -/
theorem State.wf_storeBlock {s : State} (k : Nat) (h : s.mem.wf) : (s.storeBlock k).mem.wf := by
  induction k with
  | zero => exact h
  | succ k ih => exact State.wf_memWrite _ _ ih

/-- The block load changes registers only. -/
theorem State.loadBlock_eq (s : State) (k : Nat) : s.loadBlock k = { s with v := (s.loadBlock k).v } := by
  induction k with
  | zero => rfl
  | succ k ih => rw [State.loadBlock]; nth_rewrite 1 [ih]; rfl

/-! ### The fields the block load leaves -/

@[simp] theorem State.loadBlock_mem (s : State) (k : Nat) : (s.loadBlock k).mem = s.mem := by rw [State.loadBlock_eq]
@[simp] theorem State.loadBlock_i (s : State) (k : Nat) : (s.loadBlock k).i = s.i := by rw [State.loadBlock_eq]
@[simp] theorem State.loadBlock_pc (s : State) (k : Nat) : (s.loadBlock k).pc = s.pc := by rw [State.loadBlock_eq]
@[simp] theorem State.loadBlock_stack (s : State) (k : Nat) : (s.loadBlock k).stack = s.stack := by rw [State.loadBlock_eq]
@[simp] theorem State.loadBlock_sp (s : State) (k : Nat) : (s.loadBlock k).sp = s.sp := by rw [State.loadBlock_eq]
@[simp] theorem State.loadBlock_dt (s : State) (k : Nat) : (s.loadBlock k).dt = s.dt := by rw [State.loadBlock_eq]
@[simp] theorem State.loadBlock_st (s : State) (k : Nat) : (s.loadBlock k).st = s.st := by rw [State.loadBlock_eq]
@[simp] theorem State.loadBlock_px (s : State) (k : Nat) : (s.loadBlock k).px = s.px := by rw [State.loadBlock_eq]
@[simp] theorem State.loadBlock_key (s : State) (k : Nat) : (s.loadBlock k).key = s.key := by rw [State.loadBlock_eq]
@[simp] theorem State.loadBlock_redraw (s : State) (k : Nat) : (s.loadBlock k).redraw = s.redraw := by rw [State.loadBlock_eq]
@[simp] theorem State.loadBlock_status (s : State) (k : Nat) : (s.loadBlock k).status = s.status := by rw [State.loadBlock_eq]
@[simp] theorem State.loadBlock_draws (s : State) (k : Nat) : (s.loadBlock k).draws = s.draws := by rw [State.loadBlock_eq]
@[simp] theorem State.memRead_loadBlock (s : State) (k ea : Nat) : (s.loadBlock k).memRead ea = s.memRead ea :=
  State.memRead_congr (State.loadBlock_mem s k) ea
@[simp] theorem State.slot_loadBlock (s : State) (k n : Nat) (hn : 1 ≤ n ∧ n ≤ 12) :
    (s.loadBlock k).slot n hn = s.slot n hn := State.slot_congr (State.loadBlock_stack s k) n hn

/-- The block load: registers below `k` hold the bytes at `I`, the others are as before. -/
theorem State.reg_loadBlock (s : State) (k : Nat) (hk : k ≤ 16) (j : RegIdx) :
    (s.loadBlock k).reg j = if j.val < k then s.dataRead j.val else s.reg j := by
  induction k with
  | zero => rfl
  | succ k ih =>
    have hkj : j = Fin.ofNat 16 k ↔ j.val = k := by
      rw [Fin.ext_iff, Fin.val_ofNat, Nat.mod_eq_of_lt (by omega)]
    rw [State.loadBlock, State.reg_setReg, ih (by omega)]
    simp only [hkj]
    by_cases h : j.val = k
    · rw [if_pos h, if_pos (by omega), h]
    · rw [if_neg h]
      split <;> split <;> first | rfl | omega

/-- Storing a list of bytes leaves every byte outside them. -/
theorem State.memRead_memWriteBytes_of_ne (s : State) (a : Nat) (bs : List Byte) (c : Nat)
    (h : ∀ k < bs.length, (a + k) % 4096 ≠ c % 4096) : (s.memWriteBytes a bs).memRead c = s.memRead c := by
  induction bs generalizing s a with
  | nil => rfl
  | cons b bs ih =>
    have h0 : a % 4096 ≠ c % 4096 := h 0 (Nat.succ_pos _)
    have hs : ∀ k < bs.length, (a + 1 + k) % 4096 ≠ c % 4096 := fun k hk => by
      rw [Nat.add_assoc, Nat.add_comm 1 k]
      exact h (k + 1) (Nat.succ_lt_succ hk)
    rw [State.memWriteBytes, ih _ _ hs, State.memRead_memWrite, if_neg h0]

/-- Storing a list of bytes leaves each at its place; up to 4096 bytes do not overlap. -/
theorem State.memRead_memWriteBytes (s : State) (a : Nat) (bs : List Byte) (hl : bs.length ≤ 4096) (k : Nat)
    (hk : k < bs.length) : (s.memWriteBytes a bs).memRead (a + k) = bs[k] := by
  induction bs generalizing s a k with
  | nil => exact absurd hk (Nat.not_lt_zero _)
  | cons b bs ih =>
    rw [List.length_cons] at hl hk
    cases k with
    | zero =>
      rw [State.memWriteBytes, State.memRead_memWriteBytes_of_ne _ _ _ _ fun j hj => by omega,
        State.memRead_memWrite, Nat.add_zero, if_pos rfl]
      rfl
    | succ k =>
      rw [State.memWriteBytes, show a + (k + 1) = a + 1 + k by omega,
        ih _ _ (by omega) k (Nat.lt_of_succ_lt_succ hk)]
      rfl

end Sys2Proof.Machine
end

