-- ==== Sys2Proof/Laws/Draw.lean ====
section
/-! SUPPORT. The drawing engine (43_display.md R151): one pixel, then one loop pass. -/

namespace Sys2Proof.Machine

/-- A pixel read after a pixel was toggled. -/
theorem pixelAt_togglePixel (p : PixelBuffer) (r r' : Fin 32) (c c' : Fin 64) :
    pixelAt (togglePixel p r c) r' c' = if r' = r ∧ c' = c then !pixelAt p r c else pixelAt p r' c' := by
  by_cases hr : r' = r
  · subst hr
    by_cases hc : c' = c
    · subst hc; simp [pixelAt, togglePixel]
    · have : c.val ≠ c'.val := fun h => hc (Fin.ext h.symm)
      simp [pixelAt, togglePixel, hc, this]
  · have : r.val ≠ r'.val := fun h => hr (Fin.ext h.symm)
    simp [pixelAt, togglePixel, hr, this]

/-- Every pixel of the blank buffer is 0. -/
@[simp] theorem pixelAt_blankPixels (r : Fin 32) (c : Fin 64) : pixelAt blankPixels r c = false := by
  simp [pixelAt, blankPixels]

/-- Two buffers with the same pixels are the same buffer. -/
theorem pixelBuffer_ext {p q : PixelBuffer} (h : ∀ r c, pixelAt p r c = pixelAt q r c) : p = q :=
  Vector.ext fun r hr => Vector.ext fun c hc => h ⟨r, hr⟩ ⟨c, hc⟩

/-- One inner pass: the pixel it visits is XORed with the sprite bit, every other pixel is as before. -/
theorem pixelAt_drawBit (b x0 : Byte) (r : Fin 32) (bit : Nat) (acc : PixelBuffer × Bool) (r' : Fin 32)
    (c' : Fin 64) :
    pixelAt (drawBit b x0 r bit acc).1 r' c' =
      xor (pixelAt acc.1 r' c') (spriteBit b bit && decide (r' = r ∧ c' = spriteCol x0 bit)) := by
  obtain ⟨p, hit⟩ := acc
  unfold drawBit
  by_cases hb : spriteBit b bit
  · by_cases h : r' = r ∧ c' = spriteCol x0 bit
    · obtain ⟨rfl, rfl⟩ := h
      simp [hb, pixelAt_togglePixel]
    · simp [hb, pixelAt_togglePixel, h]
  · simp [hb]

/-- One inner pass: a collision is noted when a set sprite bit meets a set pixel, and never forgotten. -/
theorem hit_drawBit (b x0 : Byte) (r : Fin 32) (bit : Nat) (acc : PixelBuffer × Bool) :
    (drawBit b x0 r bit acc).2 = (acc.2 || (spriteBit b bit && pixelAt acc.1 r (spriteCol x0 bit))) := by
  obtain ⟨p, hit⟩ := acc
  unfold drawBit
  by_cases hb : spriteBit b bit <;> simp [hb]

end Sys2Proof.Machine
end

