-- ==== Sys2Proof/Laws/Encoding.lean ====
section
/-! SUPPORT. Each format of 30_encoding.md R74: what its fields read back as, and that its word selects its row. -/

namespace Sys2Proof

/-! ### Fields as arithmetic on the word's number -/

theorem fieldX_val (w : Word) : (fieldX w).val = w.toNat / 0x100 % 16 := by
  simp [fieldX, BitVec.extractLsb_toNat, Nat.shiftRight_eq_div_pow]

theorem fieldY_val (w : Word) : (fieldY w).val = w.toNat / 0x10 % 16 := by
  simp [fieldY, BitVec.extractLsb_toNat, Nat.shiftRight_eq_div_pow]

theorem fieldN_val (w : Word) : (fieldN w).val = w.toNat % 16 := by
  simp [fieldN, BitVec.extractLsb_toNat, Nat.shiftRight_eq_div_pow]

theorem fieldNN_toNat (w : Word) : (fieldNN w).toNat = w.toNat % 0x100 := by
  simp [fieldNN, BitVec.extractLsb_toNat]

theorem fieldNNN_toNat (w : Word) : (fieldNNN w).toNat = w.toNat % 0x1000 := by
  simp [fieldNNN, BitVec.extractLsb_toNat]

/-! ### Fields of each format -/

theorem fieldNNN_encodeA (op : Nat) (nnn : Addr) : fieldNNN (encodeA op nnn) = nnn := by
  apply BitVec.eq_of_toNat_eq
  have := nnn.isLt
  rw [fieldNNN_toNat, encodeA, BitVec.toNat_ofNat]; omega

theorem fieldX_encodeI (op : Nat) (x : RegIdx) (nn : Byte) : fieldX (encodeI op x nn) = x := by
  apply Fin.ext
  have := x.isLt; have := nn.isLt
  rw [fieldX_val, encodeI, BitVec.toNat_ofNat]; omega

theorem fieldNN_encodeI (op : Nat) (x : RegIdx) (nn : Byte) : fieldNN (encodeI op x nn) = nn := by
  apply BitVec.eq_of_toNat_eq
  have := x.isLt; have := nn.isLt
  rw [fieldNN_toNat, encodeI, BitVec.toNat_ofNat]; omega

theorem fieldX_encodeR (op : Nat) (x y : RegIdx) (n : Fin 16) : fieldX (encodeR op x y n) = x := by
  apply Fin.ext
  have := x.isLt; have := y.isLt; have := n.isLt
  rw [fieldX_val, encodeR, BitVec.toNat_ofNat]; omega

theorem fieldY_encodeR (op : Nat) (x y : RegIdx) (n : Fin 16) : fieldY (encodeR op x y n) = y := by
  apply Fin.ext
  have := x.isLt; have := y.isLt; have := n.isLt
  rw [fieldY_val, encodeR, BitVec.toNat_ofNat]; omega

theorem fieldN_encodeR (op : Nat) (x y : RegIdx) (n : Fin 16) : fieldN (encodeR op x y n) = n := by
  apply Fin.ext
  have := x.isLt; have := y.isLt; have := n.isLt
  rw [fieldN_val, encodeR, BitVec.toNat_ofNat]; omega

theorem fieldX_encodeX (op : Nat) (x : RegIdx) (minor : Nat) (hm : minor < 256) :
    fieldX (encodeX op x minor) = x := by
  apply Fin.ext
  have := x.isLt
  rw [fieldX_val, encodeX, BitVec.toNat_ofNat]; omega

/-! ### A row that fixes the major opcode only -/

/-- Masking with 0xF000 keeps the most significant nibble. -/
theorem and_F000 (w : Word) : w &&& 0xF000 = BitVec.ofNat 16 (w.toNat / 0x1000 * 0x1000) := by
  apply BitVec.eq_of_getLsbD_eq
  intro k hk
  rw [BitVec.getLsbD_and, BitVec.getLsbD_ofNat, show w.toNat / 0x1000 * 0x1000 = (w.toNat >>> 12) <<< 12 by
    rw [Nat.shiftLeft_eq, Nat.shiftRight_eq_div_pow], Nat.testBit_shiftLeft, Nat.testBit_shiftRight]
  have hw : w.toNat.testBit k = w.getLsbD k := rfl
  by_cases h : 12 ≤ k
  · have hm : ∀ j : Fin 16, 12 ≤ j.val → (0xF000 : Word).getLsbD j.val = true := by decide
    rw [show 12 + (k - 12) = k by omega, hw, hm ⟨k, hk⟩ h]
    simp [h, hk]
  · have hm : ∀ j : Fin 16, ¬ 12 ≤ j.val → (0xF000 : Word).getLsbD j.val = false := by decide
    rw [hm ⟨k, hk⟩ h]
    simp [h]

/-- A word with the row's major opcode selects it. -/
theorem selects_of_op {r : Row} {w : Word} (op : Nat) (hm : r.mask = 0xF000)
    (hp : r.pattern = BitVec.ofNat 16 (op * 0x1000)) (hw : w.toNat / 0x1000 = op) : r.selects w = true := by
  rw [Row.selects, hm, and_F000, hw, hp, beq_self_eq_true]

theorem encodeA_op {op : Nat} (h : op < 16) (nnn : Addr) : (encodeA op nnn).toNat / 0x1000 = op := by
  have := nnn.isLt
  rw [encodeA, BitVec.toNat_ofNat]; omega

theorem encodeI_op {op : Nat} (h : op < 16) (x : RegIdx) (nn : Byte) : (encodeI op x nn).toNat / 0x1000 = op := by
  have := x.isLt; have := nn.isLt
  rw [encodeI, BitVec.toNat_ofNat]; omega

theorem encodeR_op {op : Nat} (h : op < 16) (x y : RegIdx) (n : Fin 16) :
    (encodeR op x y n).toNat / 0x1000 = op := by
  have := x.isLt; have := y.isLt; have := n.isLt
  rw [encodeR, BitVec.toNat_ofNat]; omega

end Sys2Proof
end

