-- ==== Sys2Proof/Laws/Flags.lean ====
section
/-! SUPPORT. The flag values: each is 0 or 1, and when it is which (10_state.md R22, 41_alu.md R132). -/

namespace Sys2Proof.Machine

/-- A flag is exactly 0 or 1. -/
theorem flagOf_eq (c : Bool) : flagOf c = 0 ∨ flagOf c = 1 := by revert c; decide

@[simp] theorem flagOf_true : flagOf true = 1 := rfl
@[simp] theorem flagOf_false : flagOf false = 0 := rfl

theorem carryFlag_eq (a b : Byte) : carryFlag a b = if a.toNat + b.toNat > 255 then 1 else 0 := by
  simp [carryFlag, flagOf]

theorem noBorrowFlag_eq (a b : Byte) : noBorrowFlag a b = if b.toNat ≤ a.toNat then 1 else 0 := by
  simp [noBorrowFlag, flagOf]

theorem lowBitFlag_toNat (a : Byte) : (lowBitFlag a).toNat = a.toNat % 2 := by revert a; decide

theorem highBitFlag_toNat (a : Byte) : (highBitFlag a).toNat = a.toNat / 128 := by revert a; decide

theorem carryFlag_bit (a b : Byte) : carryFlag a b = 0 ∨ carryFlag a b = 1 := flagOf_eq _
theorem noBorrowFlag_bit (a b : Byte) : noBorrowFlag a b = 0 ∨ noBorrowFlag a b = 1 := flagOf_eq _
theorem lowBitFlag_bit (a : Byte) : lowBitFlag a = 0 ∨ lowBitFlag a = 1 := flagOf_eq _
theorem highBitFlag_bit (a : Byte) : highBitFlag a = 0 ∨ highBitFlag a = 1 := flagOf_eq _
theorem collisionFlag_bit (hit : Bool) : collisionFlag hit = 0 ∨ collisionFlag hit = 1 := flagOf_eq _

end Sys2Proof.Machine
end

