-- ==== Sys2Proof/Laws/PerInstr.lean ====
section
/-! SUPPORT. The family `InRow`: the word of every instruction selects the row of the opcode map that bears its
mnemonic, and the row builds the instruction back from the word (30_encoding.md R74, R76). -/

namespace Sys2Proof.Laws.InRow

/-- The mnemonic of an instruction's row in spec/opcode_table.json. -/
def mnemonic : Instr → String
  | .cls => "CLS"
  | .ret => "RET"
  | .jp _ => "JP_nnn"
  | .call _ => "CALL_nnn"
  | .seImm _ _ => "SE_Vx__nn"
  | .sneImm _ _ => "SNE_Vx__nn"
  | .seReg _ _ => "SE_Vx__Vy"
  | .ldImm _ _ => "LD_Vx__nn"
  | .addImm _ _ => "ADD_Vx__nn"
  | .ldReg _ _ => "LD_Vx__Vy"
  | .orReg _ _ => "OR_Vx__Vy"
  | .andReg _ _ => "AND_Vx__Vy"
  | .xorReg _ _ => "XOR_Vx__Vy"
  | .addReg _ _ => "ADD_Vx__Vy"
  | .subReg _ _ => "SUB_Vx__Vy"
  | .shr _ _ => "SHR_Vx"
  | .subnReg _ _ => "SUBN_Vx__Vy"
  | .shl _ _ => "SHL_Vx"
  | .sneReg _ _ => "SNE_Vx__Vy"
  | .ldI _ => "LD_I__nnn"
  | .jpV0 _ => "JP_V0__nnn"
  | .rnd _ _ => "RND_Vx__nn"
  | .drw _ _ _ => "DRW_Vx__Vy__n"
  | .skp _ => "SKP_Vx"
  | .sknp _ => "SKNP_Vx"
  | .ldVxDT _ => "LD_Vx__DT"
  | .ldVxK _ => "LD_Vx__K"
  | .ldDTVx _ => "LD_DT__Vx"
  | .ldSTVx _ => "LD_ST__Vx"
  | .addIVx _ => "ADD_I__Vx"
  | .ldFVx _ => "LD_F__Vx"
  | .ldBVx _ => "LD_B__Vx"
  | .storeRegs _ => "LD__I___Vx"
  | .loadRegs _ => "LD_Vx___I"

/-- A row of the opcode map bears the instruction's mnemonic, is selected by its word, and builds it from the word. -/
def Statement (i : Instr) : Prop :=
  ∃ r ∈ rows, r.mnemonic = mnemonic i ∧ r.selects (encode i) = true ∧ r.build (encode i) = i

theorem cls : Statement .cls :=
  ⟨_, List.getElem_mem (n := 0) (by decide), rfl, rfl, rfl⟩

theorem ret : Statement .ret :=
  ⟨_, List.getElem_mem (n := 1) (by decide), rfl, rfl, rfl⟩

theorem jp (nnn : Addr) : Statement (.jp nnn) :=
  ⟨_, List.getElem_mem (n := 2) (by decide), rfl, selects_of_op _ rfl rfl (encodeA_op (by decide) nnn), congrArg Instr.jp (fieldNNN_encodeA _ nnn)⟩

theorem call (nnn : Addr) : Statement (.call nnn) :=
  ⟨_, List.getElem_mem (n := 3) (by decide), rfl, selects_of_op _ rfl rfl (encodeA_op (by decide) nnn), congrArg Instr.call (fieldNNN_encodeA _ nnn)⟩

theorem seImm (x : RegIdx) (nn : Byte) : Statement (.seImm x nn) :=
  ⟨_, List.getElem_mem (n := 4) (by decide), rfl, selects_of_op _ rfl rfl (encodeI_op (by decide) x nn), congrArg₂ Instr.seImm (fieldX_encodeI _ x nn) (fieldNN_encodeI _ x nn)⟩

theorem sneImm (x : RegIdx) (nn : Byte) : Statement (.sneImm x nn) :=
  ⟨_, List.getElem_mem (n := 5) (by decide), rfl, selects_of_op _ rfl rfl (encodeI_op (by decide) x nn), congrArg₂ Instr.sneImm (fieldX_encodeI _ x nn) (fieldNN_encodeI _ x nn)⟩

theorem seReg (x : RegIdx) (y : RegIdx) : Statement (.seReg x y) :=
  ⟨_, List.getElem_mem (n := 6) (by decide), rfl, by revert x y; decide, congrArg₂ Instr.seReg (fieldX_encodeR _ x y _) (fieldY_encodeR _ x y _)⟩

theorem ldImm (x : RegIdx) (nn : Byte) : Statement (.ldImm x nn) :=
  ⟨_, List.getElem_mem (n := 7) (by decide), rfl, selects_of_op _ rfl rfl (encodeI_op (by decide) x nn), congrArg₂ Instr.ldImm (fieldX_encodeI _ x nn) (fieldNN_encodeI _ x nn)⟩

theorem addImm (x : RegIdx) (nn : Byte) : Statement (.addImm x nn) :=
  ⟨_, List.getElem_mem (n := 8) (by decide), rfl, selects_of_op _ rfl rfl (encodeI_op (by decide) x nn), congrArg₂ Instr.addImm (fieldX_encodeI _ x nn) (fieldNN_encodeI _ x nn)⟩

theorem ldReg (x : RegIdx) (y : RegIdx) : Statement (.ldReg x y) :=
  ⟨_, List.getElem_mem (n := 9) (by decide), rfl, by revert x y; decide, congrArg₂ Instr.ldReg (fieldX_encodeR _ x y _) (fieldY_encodeR _ x y _)⟩

theorem orReg (x : RegIdx) (y : RegIdx) : Statement (.orReg x y) :=
  ⟨_, List.getElem_mem (n := 10) (by decide), rfl, by revert x y; decide, congrArg₂ Instr.orReg (fieldX_encodeR _ x y _) (fieldY_encodeR _ x y _)⟩

theorem andReg (x : RegIdx) (y : RegIdx) : Statement (.andReg x y) :=
  ⟨_, List.getElem_mem (n := 11) (by decide), rfl, by revert x y; decide, congrArg₂ Instr.andReg (fieldX_encodeR _ x y _) (fieldY_encodeR _ x y _)⟩

theorem xorReg (x : RegIdx) (y : RegIdx) : Statement (.xorReg x y) :=
  ⟨_, List.getElem_mem (n := 12) (by decide), rfl, by revert x y; decide, congrArg₂ Instr.xorReg (fieldX_encodeR _ x y _) (fieldY_encodeR _ x y _)⟩

theorem addReg (x : RegIdx) (y : RegIdx) : Statement (.addReg x y) :=
  ⟨_, List.getElem_mem (n := 13) (by decide), rfl, by revert x y; decide, congrArg₂ Instr.addReg (fieldX_encodeR _ x y _) (fieldY_encodeR _ x y _)⟩

theorem subReg (x : RegIdx) (y : RegIdx) : Statement (.subReg x y) :=
  ⟨_, List.getElem_mem (n := 14) (by decide), rfl, by revert x y; decide, congrArg₂ Instr.subReg (fieldX_encodeR _ x y _) (fieldY_encodeR _ x y _)⟩

theorem shr (x : RegIdx) (y : RegIdx) : Statement (.shr x y) :=
  ⟨_, List.getElem_mem (n := 15) (by decide), rfl, by revert x y; decide, congrArg₂ Instr.shr (fieldX_encodeR _ x y _) (fieldY_encodeR _ x y _)⟩

theorem subnReg (x : RegIdx) (y : RegIdx) : Statement (.subnReg x y) :=
  ⟨_, List.getElem_mem (n := 16) (by decide), rfl, by revert x y; decide, congrArg₂ Instr.subnReg (fieldX_encodeR _ x y _) (fieldY_encodeR _ x y _)⟩

theorem shl (x : RegIdx) (y : RegIdx) : Statement (.shl x y) :=
  ⟨_, List.getElem_mem (n := 17) (by decide), rfl, by revert x y; decide, congrArg₂ Instr.shl (fieldX_encodeR _ x y _) (fieldY_encodeR _ x y _)⟩

theorem sneReg (x : RegIdx) (y : RegIdx) : Statement (.sneReg x y) :=
  ⟨_, List.getElem_mem (n := 18) (by decide), rfl, by revert x y; decide, congrArg₂ Instr.sneReg (fieldX_encodeR _ x y _) (fieldY_encodeR _ x y _)⟩

theorem ldI (nnn : Addr) : Statement (.ldI nnn) :=
  ⟨_, List.getElem_mem (n := 19) (by decide), rfl, selects_of_op _ rfl rfl (encodeA_op (by decide) nnn), congrArg Instr.ldI (fieldNNN_encodeA _ nnn)⟩

theorem jpV0 (nnn : Addr) : Statement (.jpV0 nnn) :=
  ⟨_, List.getElem_mem (n := 20) (by decide), rfl, selects_of_op _ rfl rfl (encodeA_op (by decide) nnn), congrArg Instr.jpV0 (fieldNNN_encodeA _ nnn)⟩

theorem rnd (x : RegIdx) (nn : Byte) : Statement (.rnd x nn) :=
  ⟨_, List.getElem_mem (n := 21) (by decide), rfl, selects_of_op _ rfl rfl (encodeI_op (by decide) x nn), congrArg₂ Instr.rnd (fieldX_encodeI _ x nn) (fieldNN_encodeI _ x nn)⟩

theorem drw (x : RegIdx) (y : RegIdx) (n : Fin 16) : Statement (.drw x y n) :=
  ⟨_, List.getElem_mem (n := 22) (by decide), rfl, selects_of_op _ rfl rfl (encodeR_op (by decide) x y n), by
    show Instr.drw _ _ _ = _
    rw [encode, fieldX_encodeR, fieldY_encodeR, fieldN_encodeR]⟩

theorem skp (x : RegIdx) : Statement (.skp x) :=
  ⟨_, List.getElem_mem (n := 23) (by decide), rfl, by revert x; decide, congrArg Instr.skp (fieldX_encodeX _ x _ (by decide))⟩

theorem sknp (x : RegIdx) : Statement (.sknp x) :=
  ⟨_, List.getElem_mem (n := 24) (by decide), rfl, by revert x; decide, congrArg Instr.sknp (fieldX_encodeX _ x _ (by decide))⟩

theorem ldVxDT (x : RegIdx) : Statement (.ldVxDT x) :=
  ⟨_, List.getElem_mem (n := 25) (by decide), rfl, by revert x; decide, congrArg Instr.ldVxDT (fieldX_encodeX _ x _ (by decide))⟩

theorem ldVxK (x : RegIdx) : Statement (.ldVxK x) :=
  ⟨_, List.getElem_mem (n := 26) (by decide), rfl, by revert x; decide, congrArg Instr.ldVxK (fieldX_encodeX _ x _ (by decide))⟩

theorem ldDTVx (x : RegIdx) : Statement (.ldDTVx x) :=
  ⟨_, List.getElem_mem (n := 27) (by decide), rfl, by revert x; decide, congrArg Instr.ldDTVx (fieldX_encodeX _ x _ (by decide))⟩

theorem ldSTVx (x : RegIdx) : Statement (.ldSTVx x) :=
  ⟨_, List.getElem_mem (n := 28) (by decide), rfl, by revert x; decide, congrArg Instr.ldSTVx (fieldX_encodeX _ x _ (by decide))⟩

theorem addIVx (x : RegIdx) : Statement (.addIVx x) :=
  ⟨_, List.getElem_mem (n := 29) (by decide), rfl, by revert x; decide, congrArg Instr.addIVx (fieldX_encodeX _ x _ (by decide))⟩

theorem ldFVx (x : RegIdx) : Statement (.ldFVx x) :=
  ⟨_, List.getElem_mem (n := 30) (by decide), rfl, by revert x; decide, congrArg Instr.ldFVx (fieldX_encodeX _ x _ (by decide))⟩

theorem ldBVx (x : RegIdx) : Statement (.ldBVx x) :=
  ⟨_, List.getElem_mem (n := 31) (by decide), rfl, by revert x; decide, congrArg Instr.ldBVx (fieldX_encodeX _ x _ (by decide))⟩

theorem storeRegs (x : RegIdx) : Statement (.storeRegs x) :=
  ⟨_, List.getElem_mem (n := 32) (by decide), rfl, by revert x; decide, congrArg Instr.storeRegs (fieldX_encodeX _ x _ (by decide))⟩

theorem loadRegs (x : RegIdx) : Statement (.loadRegs x) :=
  ⟨_, List.getElem_mem (n := 33) (by decide), rfl, by revert x; decide, congrArg Instr.loadRegs (fieldX_encodeX _ x _ (by decide))⟩

end Sys2Proof.Laws.InRow
end

