-- ==== Sys2Proof/Laws/Sprite.lean ====
section
/-! SUPPORT. The drawing loops (43_display.md R151): what a row and a sprite do to every pixel, and when they collide. -/

namespace Sys2Proof.Machine

/-- One of the first `k` bits of a sprite byte drawn on row `r` is set and falls on the pixel. -/
def rowSets (b x0 : Byte) (r : Fin 32) (k : Nat) (r' : Fin 32) (c' : Fin 64) : Prop :=
  r' = r ∧ ∃ bit < k, spriteBit b bit = true ∧ c' = spriteCol x0 bit

/-- Eight neighbouring columns are distinct. -/
theorem spriteCol_inj {x0 : Byte} {i j : Nat} (hi : i < 8) (hj : j < 8) (h : spriteCol x0 i = spriteCol x0 j) : i = j := by
  have := congrArg Fin.val h
  simp [spriteCol] at this; omega

/-- Sixteen neighbouring rows are distinct. -/
theorem spriteRow_inj {y0 : Byte} {i j : Nat} (hi : i < 16) (hj : j < 16) (h : spriteRow y0 i = spriteRow y0 j) : i = j := by
  have := congrArg Fin.val h
  simp [spriteRow] at this; omega

open Classical in
/-- All that the bits of one row do: the covered pixels are inverted, and a covered set pixel is a collision. -/
theorem drawBits_spec (b x0 : Byte) (r : Fin 32) (k : Nat) (hk : k ≤ 8) (acc : PixelBuffer × Bool) :
   (∀ r' c', pixelAt (drawBits b x0 r k acc).1 r' c' = xor (pixelAt acc.1 r' c') (decide (rowSets b x0 r k r' c'))) ∧
   ((drawBits b x0 r k acc).2 = true ↔ acc.2 = true ∨ ∃ r' c', rowSets b x0 r k r' c' ∧ pixelAt acc.1 r' c' = true) := by
  induction k with
  | zero => simp [drawBits, rowSets]
  | succ k ih =>
    obtain ⟨ih1, ih2⟩ := ih (by omega)
    have fresh : ∀ r', ¬ rowSets b x0 r k r' (spriteCol x0 k) := by
      rintro r' ⟨-, bit, hb, -, he⟩
      have := spriteCol_inj (by omega) (by omega) he; omega
    have step : ∀ r' c', rowSets b x0 r (k+1) r' c' ↔ rowSets b x0 r k r' c' ∨ (spriteBit b k = true ∧ r' = r ∧ c' = spriteCol x0 k) := by
      intro r' c'
      constructor
      · rintro ⟨hr, bit, hb, hs, hc⟩
        by_cases h : bit = k
        · subst h; exact .inr ⟨hs, hr, hc⟩
        · exact .inl ⟨hr, bit, by omega, hs, hc⟩
      · rintro (⟨hr, bit, hb, hs, hc⟩ | ⟨hs, hr, hc⟩)
        · exact ⟨hr, bit, by omega, hs, hc⟩
        · exact ⟨hr, k, by omega, hs, hc⟩
    constructor
    · intro r' c'
      rw [drawBits, pixelAt_drawBit, ih1]
      by_cases h : spriteBit b k = true ∧ r' = r ∧ c' = spriteCol x0 k
      · obtain ⟨h1, rfl, rfl⟩ := h
        have f := fresh r'
        simp [f, h1, step]
      · by_cases h2 : rowSets b x0 r k r' c'
        · have : rowSets b x0 r (k+1) r' c' := (step _ _).2 (.inl h2)
          simp only [h2, this]
          by_cases h3 : spriteBit b k = true
          · simp only [h3]; by_cases e1 : r' = r <;> by_cases e2 : c' = spriteCol x0 k <;> simp_all
          · simp [h3]
        · have : ¬ rowSets b x0 r (k+1) r' c' := fun hc => ((step _ _).1 hc).elim h2 h
          simp only [h2, this]
          by_cases h3 : spriteBit b k = true
          · simp only [h3]; by_cases e1 : r' = r <;> by_cases e2 : c' = spriteCol x0 k <;> simp_all
          · simp [h3]
    · rw [drawBits, hit_drawBit]
      simp only [Bool.or_eq_true, ih2, Bool.and_eq_true, ih1, fresh, decide_false, Bool.xor_false, or_assoc]
      constructor
      · rintro (h | ⟨r', c', h, hp⟩ | ⟨h1, h2⟩)
        · exact .inl h
        · exact .inr ⟨r', c', (step _ _).2 (.inl h), hp⟩
        · exact .inr ⟨r, _, (step _ _).2 (.inr ⟨h1, rfl, rfl⟩), h2⟩
      · rintro (h | ⟨r', c', h, hp⟩)
        · exact .inl h
        · rcases (step _ _).1 h with h | ⟨h1, rfl, rfl⟩
          · exact .inr (.inl ⟨r', c', h, hp⟩)
          · exact .inr (.inr ⟨h1, hp⟩)

/-- A sprite covers a pixel if one of its rows does. -/
theorem State.spriteSets_iff (s : State) (x0 y0 : Byte) (k : Nat) (r : Fin 32) (c : Fin 64) : s.SpriteSets x0 y0 k r c ↔
   ∃ row < k, rowSets (s.dataRead row) x0 (spriteRow y0 row) 8 r c := by
  constructor
  · rintro ⟨row, bit, h1, h2, h3, h4, h5⟩
    exact ⟨row, h1, Fin.ext (by simpa [spriteRow] using h3), bit, h2, h5, Fin.ext (by simpa [spriteCol] using h4)⟩
  · rintro ⟨row, h1, hr, bit, h2, h5, hc⟩
    exact ⟨row, bit, h1, h2, by rw [hr]; simp [spriteRow], by rw [hc]; simp [spriteCol], h5⟩

open Classical in
/-- All that the rows of a sprite do (43_display.md R151). -/
theorem State.drawRows_spec (s : State) (x0 y0 : Byte) (k : Nat) (hk : k ≤ 16) (acc : PixelBuffer × Bool) :
   (∀ r' c', pixelAt (s.drawRows x0 y0 k acc).1 r' c' = xor (pixelAt acc.1 r' c') (decide (s.SpriteSets x0 y0 k r' c'))) ∧
   ((s.drawRows x0 y0 k acc).2 = true ↔ acc.2 = true ∨ ∃ r' c', s.SpriteSets x0 y0 k r' c' ∧ pixelAt acc.1 r' c' = true) := by
  induction k with
  | zero => simp [State.drawRows, State.SpriteSets]
  | succ k ih =>
    obtain ⟨ih1, ih2⟩ := ih (by omega)
    obtain ⟨d1, d2⟩ := drawBits_spec (s.dataRead k) x0 (spriteRow y0 k) 8 (le_refl _) (s.drawRows x0 y0 k acc)
    have step : ∀ r' c', s.SpriteSets x0 y0 (k+1) r' c' ↔ s.SpriteSets x0 y0 k r' c' ∨ rowSets (s.dataRead k) x0 (spriteRow y0 k) 8 r' c' := by
      intro r' c'
      simp only [State.spriteSets_iff]
      constructor
      · rintro ⟨row, h1, h⟩
        by_cases e : row = k
        · subst e; exact .inr h
        · exact .inl ⟨row, by omega, h⟩
      · rintro (⟨row, h1, h⟩ | h)
        · exact ⟨row, by omega, h⟩
        · exact ⟨k, by omega, h⟩
    have excl : ∀ r' c', s.SpriteSets x0 y0 k r' c' → ¬ rowSets (s.dataRead k) x0 (spriteRow y0 k) 8 r' c' := by
      intro r' c' h h'
      obtain ⟨row, h1, hr, -⟩ := (State.spriteSets_iff ..).1 h
      have := spriteRow_inj (by omega) (by omega) (hr.symm.trans h'.1); omega
    constructor
    · intro r' c'
      rw [State.drawRows, d1, ih1]
      by_cases h1 : s.SpriteSets x0 y0 k r' c'
      · simp [h1, excl _ _ h1, step]
      · by_cases h2 : rowSets (s.dataRead k) x0 (spriteRow y0 k) 8 r' c' <;> simp [h1, h2, step]
    · rw [State.drawRows, d2, ih2]
      simp only [or_assoc, step]
      constructor
      · rintro (h | ⟨r', c', h, hp⟩ | ⟨r', c', h, hp⟩)
        · exact .inl h
        · exact .inr ⟨r', c', .inl h, hp⟩
        · rw [ih1] at hp
          have : ¬ s.SpriteSets x0 y0 k r' c' := fun hc => excl _ _ hc h
          exact .inr ⟨r', c', .inr h, by simpa [this] using hp⟩
      · rintro (h | ⟨r', c', h | h, hp⟩)
        · exact .inl h
        · exact .inr (.inl ⟨r', c', h, hp⟩)
        · have : ¬ s.SpriteSets x0 y0 k r' c' := fun hc => excl _ _ hc h
          exact .inr (.inr ⟨r', c', h, by rw [ih1]; simpa [this] using hp⟩)

end Sys2Proof.Machine
end

