-- ==== Sys2Proof/Laws/Transactions.lean ====
section
/-! SUPPORT. What the host's transactions leave of each field, and the two answers of `setInput`. -/

namespace Sys2Proof.Machine

/-! ### `tick` -/

@[simp] theorem tick_mem (s : State) : (tick s).mem = s.mem := rfl
@[simp] theorem tick_v (s : State) : (tick s).v = s.v := rfl
@[simp] theorem tick_i (s : State) : (tick s).i = s.i := rfl
@[simp] theorem tick_pc (s : State) : (tick s).pc = s.pc := rfl
@[simp] theorem tick_stack (s : State) : (tick s).stack = s.stack := rfl
@[simp] theorem tick_sp (s : State) : (tick s).sp = s.sp := rfl
@[simp] theorem tick_dt (s : State) : (tick s).dt = timerTick s.dt := rfl
@[simp] theorem tick_st (s : State) : (tick s).st = timerTick s.st := rfl
@[simp] theorem tick_px (s : State) : (tick s).px = s.px := rfl
@[simp] theorem tick_key (s : State) : (tick s).key = s.key := rfl
@[simp] theorem tick_redraw (s : State) : (tick s).redraw = s.redraw := rfl
@[simp] theorem tick_status (s : State) : (tick s).status = s.status := rfl
@[simp] theorem tick_draws (s : State) : (tick s).draws = s.draws := rfl

/-- `ticks` one step further. -/
theorem ticks_succ (k : Nat) (s : State) : ticks (k + 1) s = tick (ticks k s) := rfl

/-! ### `exportFrame` -/

@[simp] theorem exportFrame_reply (s : State) : (exportFrame s).1 = (s.px, s.redraw) := rfl
@[simp] theorem exportFrame_state (s : State) : (exportFrame s).2 = s.setRedraw false := rfl

/-! ### `setInput` -/

/-- A key ends a wait. -/
theorem setInput_waiting {s : State} {r : RegIdx} (h : s.status = .waitingForKey r) (c : KeyCode) :
    setInput (some c) s = ((s.setKey (some c)).setReg r (keyByte c)).setStatus .running := by
  simp [setInput, h]

/-- Otherwise only the latch changes. -/
theorem setInput_latch {s : State} {k : Option KeyCode} (h : k = none ∨ ∀ r, s.status ≠ .waitingForKey r) :
    setInput k s = s.setKey k := by
  unfold setInput
  split
  · next r c hs => exact absurd hs ((h.resolve_left (by simp)) r)
  · rfl

/-- The byte of a key code holds the code. -/
@[simp] theorem keyByte_toNat (k : KeyCode) : (keyByte k).toNat = k.val := by
  have := k.isLt
  simp [keyByte]; omega

/-- Reset is the reset state under the configuration's font, but for the draw counter. -/
theorem resetMachine_eq (cfg : Config) (s : State) :
    resetMachine cfg s = { State.reset with mem := (resetMachine cfg s).mem, draws := s.draws } :=
  State.memWriteBytes_eq _ _ _

end Sys2Proof.Machine
end

