-- ==== Sys2Proof/Tests/Slice0.lean ====
section
/-! SUPPORT. Tests on fixed values. Expected results come from the vectors of 95_test_vectors.md, named in each
docstring, or are written out from the patterns of 30_encoding.md R76. Then one or more witnesses for every obligation
that has hypotheses. -/

namespace Sys2Proof.Tests

open Sys2Proof Sys2Proof.Machine

/-! ## Helpers -/

/-- What an outcome goes on with, if it goes on. -/
def nextOf {α : Type} : Host.Outcome α Fault Refusal → Option α
  | .next t => some t
  | _ => none

theorem next_of_nextOf {α : Type} {o : Host.Outcome α Fault Refusal} {t : α} (h : nextOf o = some t) : o = .next t := by
  cases o <;> simp_all [nextOf]

/-- One Step of the word `w` placed at `pc`. -/
def run1 (w : Nat) (s : State) : Option State := nextOf (step (s.withFetchWord 16 w))

/-- The reset state with some registers written. -/
def regs (l : List (RegIdx × Byte)) : State := l.foldl (fun s p => s.setReg p.1 p.2) State.reset

/-- That state with `I` set. -/
def regsI (i : Word) (l : List (RegIdx × Byte)) : State := (regs l).setI i

/-- The reset state with the stack pointer at `n` and every slot `a`. -/
def stacked (n : Fin 13) (a : Word) : State := { State.reset with sp := n, stack := Vector.replicate 12 a }

/-- The reset state halted for a cause. -/
def haltedAs (c : HaltCause) : State := State.reset.setStatus (.halted c)

/-- The default configuration with `strict_decode = true`. -/
def strictConfig : Config := { defaultConfig with strictDecode := true }

/-- The state `exec` leaves. -/
def after (i : Instr) (s : State) : State := (nextOf (exec i s)).getD s

/-- A session on a state, after the launch. -/
def onState (s : State) : Session := { machine := s, loadOpen := false }

/-! ## Well-formedness: an ill-formed term for each check -/

theorem test_shr_with_y_is_not_assembled : (Instr.shr 1 3).assembled = false ∧ (Instr.shr 1 0).assembled = true := by decide
theorem test_shl_with_y_is_not_assembled : (Instr.shl 1 3).assembled = false ∧ (Instr.shl 1 0).assembled = true := by decide
theorem test_image_of_3585_bytes_is_refused :
    imageFits (List.replicate 3585 0) = false ∧ imageFits (List.replicate 3584 0) = true := by
  simp only [imageFits, List.length_replicate]
  decide
theorem test_duration_over_zero_is_refused : (Duration.wf ⟨1, 0⟩) = false ∧ (Duration.wf ⟨1, 1⟩) = true := by decide

/-! ## Decoding: every constructor by a word written out from R76 -/

theorem test_decode_cls : decode 0x00E0 = some .cls := by decide
theorem test_decode_ret : decode 0x00EE = some .ret := by decide
theorem test_decode_jp : decode 0x12F0 = some (.jp 0x2F0) := by decide
theorem test_decode_call : decode 0x2210 = some (.call 0x210) := by decide
theorem test_decode_seImm : decode 0x302A = some (.seImm 0 0x2A) := by decide
theorem test_decode_sneImm : decode 0x4A2B = some (.sneImm 10 0x2B) := by decide
theorem test_decode_seReg : decode 0x5120 = some (.seReg 1 2) := by decide
theorem test_decode_ldImm : decode 0x6A42 = some (.ldImm 10 0x42) := by decide
theorem test_decode_addImm : decode 0x70FF = some (.addImm 0 0xFF) := by decide
theorem test_decode_ldReg : decode 0x8120 = some (.ldReg 1 2) := by decide
theorem test_decode_orReg : decode 0x8121 = some (.orReg 1 2) := by decide
theorem test_decode_andReg : decode 0x8122 = some (.andReg 1 2) := by decide
theorem test_decode_xorReg : decode 0x8443 = some (.xorReg 4 4) := by decide
theorem test_decode_addReg : decode 0x8F24 = some (.addReg 15 2) := by decide
theorem test_decode_subReg : decode 0x8015 = some (.subReg 0 1) := by decide
theorem test_decode_shr : decode 0x81F6 = some (.shr 1 15) := by decide
theorem test_decode_subnReg : decode 0x8127 = some (.subnReg 1 2) := by decide
theorem test_decode_shl : decode 0x810E = some (.shl 1 0) := by decide
theorem test_decode_sneReg : decode 0x9120 = some (.sneReg 1 2) := by decide
theorem test_decode_ldI : decode 0xA300 = some (.ldI 0x300) := by decide
theorem test_decode_jpV0 : decode 0xBFFF = some (.jpV0 0xFFF) := by decide
theorem test_decode_rnd : decode 0xC10F = some (.rnd 1 0x0F) := by decide
theorem test_decode_drw : decode 0xD125 = some (.drw 1 2 5) := by decide
theorem test_decode_skp : decode 0xE09E = some (.skp 0) := by decide
theorem test_decode_sknp : decode 0xE3A1 = some (.sknp 3) := by decide
theorem test_decode_ldVxDT : decode 0xF307 = some (.ldVxDT 3) := by decide
theorem test_decode_ldVxK : decode 0xF50A = some (.ldVxK 5) := by decide
theorem test_decode_ldDTVx : decode 0xF015 = some (.ldDTVx 0) := by decide
theorem test_decode_ldSTVx : decode 0xF118 = some (.ldSTVx 1) := by decide
theorem test_decode_addIVx : decode 0xF21E = some (.addIVx 2) := by decide
theorem test_decode_ldFVx : decode 0xF029 = some (.ldFVx 0) := by decide
theorem test_decode_ldBVx : decode 0xF033 = some (.ldBVx 0) := by decide
theorem test_decode_storeRegs : decode 0xF355 = some (.storeRegs 3) := by decide
theorem test_decode_loadRegs : decode 0xF265 = some (.loadRegs 2) := by decide

/-- E7: none of these words selects a row. -/
theorem test_unknown_words :
    decode 0x5121 = none ∧ decode 0x8128 = none ∧ decode 0x812F = none ∧ decode 0x9121 = none ∧ decode 0xE09F = none ∧
    decode 0xF000 = none ∧ decode 0xF056 = none ∧ decode 0x0123 = none ∧ decode 0x00E1 = none ∧ decode 0x00FE = none := by
  decide

/-- R76 and R79, by name: what follows the two bytes is left over, one byte is no instruction, an unknown word is. -/
theorem test_decode_bytes :
    (decodeBytes [0x60, 0x05, 0x70] = .ok (.ldImm 0 5, [0x70])) ∧ (decodeBytes [0x60] = .error .truncated) ∧
    (decodeBytes [0x51, 0x21, 0x00] = .error (.unknown 0x5121)) := by
  exact ⟨rfl, rfl, rfl⟩

/-- The host's word and its bytes: E1, the byte at the lower address is the more significant. -/
theorem test_decode_table_word : decodeTableWord 16 0x6005 = some (.ldImm 0 0x05) := by decide

/-! ## One step per instruction -/

/-- F1, F3. -/
theorem test_jp : (run1 0x1200 (State.reset.setPc 0x0206)).map (·.pc) = some 0x0200 ∧
    (run1 0x1FFF State.reset).map (·.pc) = some 0x0FFF := by decide

/-- F5 and F6: the twelfth call succeeds, the thirteenth overflows and moves nothing else. -/
theorem test_call : (run1 0x2300 (stacked 11 0)).map (fun t => (t.sp, t.stack[11], t.pc)) = some (12, 0x0202, 0x0300) ∧
    (run1 0x2300 (stacked 12 7)).map (fun t => (t.sp, t.stack[11], t.pc, t.status))
      = some (12, 7, 0x0200, .halted .stackOverflow) := by decide

/-- F9: the pushed address wraps modulo 65536. -/
theorem test_call_wraps : (run1 0x2400 (State.reset.setPc 0xFFFE)).map (fun t => (t.stack[0], t.sp, t.pc))
    = some (0x0000, 1, 0x0400) := by decide

/-- F7 and F8. -/
theorem test_ret : (run1 0x00EE (stacked 1 0x0206)).map (fun t => (t.pc, t.sp, t.stack[0])) = some (0x0206, 0, 0x0206) ∧
    (run1 0x00EE State.reset).map (fun t => (t.pc, t.sp, t.status)) = some (0x0200, 0, .halted .stackUnderflow) := by
  decide

/-- F10, F15. -/
theorem test_se_immediate : (run1 0x302A (regs [(0, 0x2A)])).map (·.pc) = some 0x0204 ∧
    (run1 0x302B (regs [(0, 0x2A)])).map (·.pc) = some 0x0202 ∧
    (run1 0x3000 (State.reset.setPc 0xFFFE)).map (·.pc) = some 0x0002 := by decide

/-- F11. -/
theorem test_sne_immediate : (run1 0x402A (regs [(0, 0x2A)])).map (·.pc) = some 0x0202 ∧
    (run1 0x402B (regs [(0, 0x2A)])).map (·.pc) = some 0x0204 := by decide

/-- F12 and F13 (5120). -/
theorem test_se_register : (run1 0x5120 (regs [(1, 7), (2, 7)])).map (·.pc) = some 0x0204 ∧
    (run1 0x5120 (regs [(1, 7), (2, 8)])).map (·.pc) = some 0x0202 := by decide

/-- F12 and F13 (9120). -/
theorem test_sne_register : (run1 0x9120 (regs [(1, 7), (2, 7)])).map (·.pc) = some 0x0202 ∧
    (run1 0x9120 (regs [(1, 7), (2, 8)])).map (·.pc) = some 0x0204 := by decide

/-- F17 and F18: the whole sum, of `V[0]` and never of `V[x]`. -/
theorem test_jp_v0 : (run1 0xBFFF (regs [(0, 0xFF)])).map (·.pc) = some 0x10FE ∧
    (run1 0xB200 (regs [(0, 0x01), (2, 0x40)])).map (·.pc) = some 0x0201 := by decide

/-- A2. -/
theorem test_ld_immediate : (run1 0x6FAB State.reset).map (·.reg vf) = some 0xAB := by decide

/-- A4, A5. -/
theorem test_add_immediate : (run1 0x7001 (regs [(0, 0xFF)])).map (fun t => (t.reg 0, t.reg vf)) = some (0x00, 0) ∧
    (run1 0x70FF (regs [(0, 0x03)])).map (·.reg 0) = some 0x02 := by decide

/-- A6. -/
theorem test_ld_register : (run1 0x8120 (regs [(2, 0x7E)])).map (fun t => (t.reg 1, t.reg 2)) = some (0x7E, 0x7E) := by decide

/-- A7. -/
theorem test_or : (run1 0x8121 (regs [(1, 0x0F), (2, 0xF0), (15, 0x55)])).map (fun t => (t.reg 1, t.reg vf))
    = some (0xFF, 0x55) := by decide

/-- A8. -/
theorem test_and : (run1 0x8122 (regs [(1, 0x3C), (2, 0x0F)])).map (·.reg 1) = some 0x0C := by decide

/-- A9, A10. -/
theorem test_xor : (run1 0x8123 (regs [(1, 0xFF), (2, 0x0F)])).map (·.reg 1) = some 0xF0 ∧
    (run1 0x8443 (regs [(4, 0x9D)])).map (·.reg 4) = some 0x00 := by decide

/-- A11, A12. -/
theorem test_add_register :
    (run1 0x8014 (regs [(0, 0xFF), (1, 0x01)])).map (fun t => (t.reg 0, t.reg vf)) = some (0x00, 1) ∧
    (run1 0x8014 (regs [(0, 0x7F), (1, 0x80), (15, 1)])).map (fun t => (t.reg 0, t.reg vf)) = some (0xFF, 0) := by decide

/-- A14, A16: VF as the destination, and as an operand. -/
theorem test_add_register_vf : (run1 0x8F24 (regs [(15, 0xF0), (2, 0x20)])).map (·.reg vf) = some 0x01 ∧
    (run1 0x80F4 (regs [(0, 0x01), (15, 0xFF)])).map (fun t => (t.reg 0, t.reg vf)) = some (0x00, 1) := by decide

/-- A17, A18, A19. -/
theorem test_sub : (run1 0x8015 (regs [(0, 5), (1, 5)])).map (fun t => (t.reg 0, t.reg vf)) = some (0x00, 1) ∧
    (run1 0x8015 (regs [(1, 1)])).map (fun t => (t.reg 0, t.reg vf)) = some (0xFF, 0) ∧
    (run1 0x8015 (regs [(0, 0x10), (1, 1)])).map (fun t => (t.reg 0, t.reg vf)) = some (0x0F, 1) := by decide

/-- A23, A25. -/
theorem test_shr : (run1 0x8106 (regs [(1, 5)])).map (fun t => (t.reg 1, t.reg vf)) = some (0x02, 1) ∧
    (run1 0x8126 (regs [(1, 4), (2, 0xFF)])).map (fun t => (t.reg 1, t.reg vf, t.reg 2)) = some (0x02, 0, 0xFF) := by decide

/-- A26. -/
theorem test_shr_vf : (run1 0x8F06 (regs [(15, 3)])).map (·.reg vf) = some 1 ∧
    (run1 0x8F06 (regs [(15, 2)])).map (·.reg vf) = some 0 := by decide

/-- A21, A22. -/
theorem test_subn :
    (run1 0x8127 (regs [(1, 5), (2, 3)])).map (fun t => (t.reg 1, t.reg vf, t.reg 2)) = some (0xFE, 0, 3) ∧
    (run1 0x8127 (regs [(1, 3), (2, 5)])).map (fun t => (t.reg 1, t.reg vf)) = some (0x02, 1) := by decide

/-- A28, A29. -/
theorem test_shl : (run1 0x810E (regs [(1, 0x40), (15, 1)])).map (fun t => (t.reg 1, t.reg vf)) = some (0x80, 0) ∧
    (run1 0x810E (regs [(1, 0xFF)])).map (fun t => (t.reg 1, t.reg vf)) = some (0xFE, 1) := by decide

/-- A30. -/
theorem test_shl_vf : (run1 0x8F0E (regs [(15, 0x80)])).map (·.reg vf) = some 1 ∧
    (run1 0x8F0E (regs [(15, 0x7F)])).map (·.reg vf) = some 0 := by decide

/-- A31, and A32 and A33 for every drawn byte. -/
theorem test_rnd_value : rndValue 0xA7 0x0F = 0x07 ∧ ∀ r, rndValue r 0x00 = 0x00 ∧ rndValue r 0xFF = r :=
  ⟨by decide, fun r => ⟨BitVec.and_zero, BitVec.and_allOnes⟩⟩

/-- One draw, and the step goes on. -/
theorem test_rnd : (run1 0xC10F State.reset).map (fun t => (t.draws, t.pc)) = some (1, 0x0202) := by decide

/-- M1. -/
theorem test_ld_i : (run1 0xA300 (State.reset.setI 0xFFFF)).map (·.i) = some 0x0300 := by decide

/-- M3, M4. -/
theorem test_add_i : (run1 0xF01E (regsI 0x0FFF [(0, 1)])).map (fun t => (t.i, t.reg vf)) = some (0x1000, 0) ∧
    (run1 0xF01E (regsI 0xFFFF [(0, 1)])).map (·.i) = some 0x0000 := by decide

/-- M5, S5. -/
theorem test_ld_f : (run1 0xF029 (regs [(0, 0x1A)])).map (·.i) = some 0x0032 ∧
    (run1 0xF029 (regs [(0, 0x0F)])).map (fun t => (t.i, t.dataRead 0, t.dataRead 1, t.dataRead 4))
      = some (0x004B, 0xF0, 0x80, 0x80) := by decide

/-- M10: the triple wraps into the font. -/
theorem test_ld_b_wraps : (run1 0xF033 (regsI 0x0FFF [(0, 234)])).map
    (fun t => (t.memRead 0xFFF, t.memRead 0x000, t.memRead 0x001, t.memRead 0x002)) = some (2, 3, 4, 0x90) := by decide

/-- M9, M8. -/
theorem test_ld_b : (run1 0xF033 (regsI 0x0300 [(0, 255)])).map (fun t => (t.dataRead 0, t.dataRead 1, t.dataRead 2, t.i))
      = some (2, 5, 5, 0x0300) ∧
    (run1 0xF033 (regsI 0x0300 [(0, 100)])).map (fun t => (t.dataRead 0, t.dataRead 1, t.dataRead 2)) = some (1, 0, 0) := by
  decide

/-- M12. -/
theorem test_store_regs_wraps : (run1 0xF355 (regsI 0x0FFE [(0, 0xA1), (1, 0xA2), (2, 0xA3), (3, 0xA4)])).map
    (fun t => (t.memRead 0xFFE, t.memRead 0xFFF, t.memRead 0x000, t.memRead 0x001, t.memRead 0x002))
      = some (0xA1, 0xA2, 0xA3, 0xA4, 0x90) := by decide

/-- M13. -/
theorem test_store_all_regs : (run1 0xFF55 (regsI 0x0400 [(15, 0x99)])).map (fun t => (t.memRead 0x40F, t.memRead 0x410, t.i))
    = some (0x99, 0, 0x0400) := by decide

/-- M14. -/
theorem test_load_regs : (run1 0xF265 ((regsI 0x0300 [(3, 0x77)]).memWriteBytes 0x300 [2, 3, 4])).map
    (fun t => (t.reg 0, t.reg 1, t.reg 2, t.reg 3, t.i)) = some (2, 3, 4, 0x77, 0x0300) := by decide

/-- M15. -/
theorem test_load_regs_font : (run1 0xF465 State.reset).map
    (fun t => (t.reg 0, t.reg 1, t.reg 2, t.reg 3, t.reg 4, t.reg 5)) = some (0xF0, 0x90, 0x90, 0x90, 0xF0, 0) := by decide

/-- P1v, from a buffer with a pixel set. -/
theorem test_cls : (run1 0x00E0 (State.reset.setPx (togglePixel blankPixels 31 63))).map (fun t => (t.px, t.redraw))
    = some (blankPixels, true) := by decide

/-- P4v: both coordinates are reduced. P10v: the second sprite row is read from address 0. -/
theorem test_drw_reduces : (run1 0xD121 ((regsI 0x0300 [(1, 70), (2, 255)]).memWrite 0x300 0x80)).map
    (fun t => (t.px, t.reg vf)) = some (togglePixel blankPixels 31 6, 0) ∧
    (run1 0xD122 ((regsI 0x0FFF []).memWrite 0xFFF 0x80)).map (fun t => (t.px, t.reg vf)) =
      some ((togglePixel (togglePixel (togglePixel (togglePixel (togglePixel blankPixels 0 0) 1 0) 1 1) 1 2) 1 3), 0) := by
  decide

/-- P6v: one pixel turned off is a collision. P9v: VF as a coordinate is read before it is written. -/
theorem test_drw_collides :
    (run1 0xD121 (((regsI 0x0300 []).memWrite 0x300 0xC0).setPx (togglePixel blankPixels 0 1))).map
      (fun t => (t.px, t.reg vf, t.redraw)) = some (togglePixel blankPixels 0 0, 1, true) ∧
    (run1 0xDF01 ((regsI 0x0300 [(15, 5), (0, 2)]).memWrite 0x300 0x80)).map (fun t => (t.px, t.reg vf))
      = some (togglePixel blankPixels 2 5, 0) := by decide

/-- K1, K4, K5. -/
theorem test_skp : (run1 0xE09E ((regs [(0, 5)]).setKey (some 5))).map (fun t => (t.pc, t.key)) = some (0x0204, some 5) ∧
    (run1 0xE09E ((regs [(0, 0x15)]).setKey (some 5))).map (·.pc) = some 0x0202 ∧
    (run1 0xE09E (State.reset.setKey (some 0))).map (·.pc) = some 0x0204 := by decide

/-- K1, K2, K4. -/
theorem test_sknp : (run1 0xE0A1 ((regs [(0, 5)]).setKey (some 5))).map (·.pc) = some 0x0202 ∧
    (run1 0xE0A1 (regs [(0, 5)])).map (·.pc) = some 0x0204 ∧
    (run1 0xE0A1 ((regs [(0, 0x15)]).setKey (some 5))).map (·.pc) = some 0x0204 := by decide

/-- K6. -/
theorem test_ld_vx_dt : (run1 0xF307 (State.reset.setDT 0x2A)).map (fun t => (t.reg 3, t.dt)) = some (0x2A, 0x2A) := by decide

/-- K9: the wait is entered although a key is held. -/
theorem test_ld_vx_k : (run1 0xF50A (State.reset.setKey (some 3))).map (fun t => (t.status, t.pc, t.reg 5))
    = some (.waitingForKey 5, 0x0202, 0) := by decide

/-- K7. -/
theorem test_ld_dt : (run1 0xF015 (regs [(0, 0x3C)])).map (fun t => (t.dt, t.st)) = some (0x3C, 0) := by decide

/-- K8. -/
theorem test_ld_st : (run1 0xF118 (regs [(1, 2)])).map (fun t => (t.st, soundActive t, soundActive (ticks 2 t)))
    = some (2, true, false) := by decide

/-! ## Fetch, unknown words, the host's transactions -/

/-- E2: the second byte comes from address 0. -/
theorem test_fetch_wraps : nextOf (step ((State.reset.setPc 0x0FFF).memWrite 0xFFF 0x12))
    = some ((State.reset.setPc 0x02F0).memWrite 0xFFF 0x12) := by decide

/-- E4: the fetch address is `pc` modulo 4096, the next `pc` is modulo 65536. -/
theorem test_fetch_high_pc : (run1 0x00E0 (State.reset.setPc 0xFFFE)).map (fun t => (t.pc, t.redraw)) = some (0, true) := by
  decide

/-- E5, E6. -/
theorem test_unknown_word : run1 0x0000 State.reset = some (State.reset.setPc 0x0202) ∧
    nextOf (stepWith strictConfig State.reset) = some (haltedAs .unknownOpcode) ∧
    stepReply State.reset (haltedAs .unknownOpcode) = .fault .unknownOpcode (some 0x0000) := by decide

/-- E10 and F6: what the host is told of a fault. -/
theorem test_fault_reply : stepReply (haltedAs .stackOverflow) (haltedAs .stackOverflow) = .fault .stackOverflow none ∧
    stepReply State.reset (haltedAs .stackUnderflow) = .fault .stackUnderflow none := by decide

/-- K13, K14, K16. -/
theorem test_tick : tick ((State.reset.setDT 1).setST 3) = State.reset.setST 2 ∧ tick State.reset = State.reset ∧
    tick ((haltedAs .stackUnderflow).setDT 5) = (haltedAs .stackUnderflow).setDT 4 := by decide

/-- K15, and a fraction of a step that is dropped (R192). -/
theorem test_tick_timers : tickTimers ⟨1, 1⟩ (State.reset.setDT 200) = State.reset.setDT 140 ∧
    wholeTicks ⟨33, 1000⟩ = 1 ∧ wholeTicks ⟨1, 61⟩ = 0 := by decide +kernel

/-- K10, K11, K12. -/
theorem test_set_input :
    setInput none (State.reset.setStatus (.waitingForKey 5)) = State.reset.setStatus (.waitingForKey 5) ∧
    setInput (some 3) (State.reset.setStatus (.waitingForKey 5)) = (regs [(5, 3)]).setKey (some 3) ∧
    setInput (some 3) (regs [(5, 9)]) = (regs [(5, 9)]).setKey (some 3) := by decide

/-- K17. -/
theorem test_export_frame : exportFrame (State.reset.setRedraw true) = ((blankPixels, true), State.reset) := by decide

/-- L1: Reset of a state with everything changed that a Reset must undo. -/
theorem test_reset : resetMachine defaultConfig
      ((((((stacked 3 7).setReg 2 9).memWrite 0x000 1).setDT 4).setKey (some 1)).setStatus (.halted .stackOverflow))
    = State.reset := by decide

/-- L4: an empty image is legal, and the first Step meets the word 0000. -/
theorem test_load_empty : nextOf ((Session.create defaultConfig).runAll defaultConfig [.load [], .step])
    = some ({ machine := State.reset.setPc 0x0202, loadOpen := false }, [.ok, .ok]) := by decide +kernel

/-- R31, R36: the default font is the reset contents, so nothing is listed. -/
theorem test_reset_with_default : State.resetWith defaultConfig = State.reset ∧ State.reset.mem.wf := by decide +kernel

/-- R59, R50: a byte written is read back, its neighbours are not touched, and writing the reset value unlists it. -/
theorem test_memory_is_canonical : ((State.reset.memWrite 0x300 7).memWrite 0x200 8).mem = [(0x200, 8), (0x300, 7)] ∧
    ((State.reset.memWrite 0x300 7).memWrite 0x1300 0) = State.reset := by decide

/-- The host's word is what the next step runs (log entry 5). -/
theorem test_with_fetch_word : nextOf (step (State.reset.withFetchWord 16 0x6005))
    = nextOf (exec (.ldImm 0 5) (State.reset.withFetchWord 16 0x6005)) := by decide

/-! ## Witnesses: a state and operands that meet the hypotheses of each obligation that has some -/

/-- RET at both ends of the stack, and empty. -/
theorem test_witness_RetJumpsToThePoppedAddress :
    (1 ≤ (stacked 1 0).sp.val ∧ (stacked 1 0).sp.val ≤ 12) ∧ (1 ≤ (stacked 12 0).sp.val ∧ (stacked 12 0).sp.val ≤ 12) ∧
    (stacked 0 0).sp.val = 0 := by decide

/-- CALL at both ends of the stack, another slot for the frame, and full. -/
theorem test_witness_CallPushesTheNextAddress : (stacked 0 0).sp.val < 12 ∧ (stacked 11 0).sp.val < 12 ∧
    (1 ≤ 1 ∧ 1 ≤ 12 ∧ 1 ≠ (stacked 11 0).sp.val + 1) ∧ (stacked 12 0).sp.val = 12 := by decide

/-- A destination that is not VF, a register that is neither, and a register a load or add leaves: for
LdImmediateWritesTheRegister, AddImmediateWrapsWithoutFlag, LdRegisterCopies, LogicIsBitwiseWithoutFlag,
AddRegistersSetsCarry, SubRegistersSetsNoBorrow, ShrMovesTheLowBitToVf, SubnSubtractsTheOtherWay,
ShlMovesTheHighBitToVf, RndMasksAFreeByte and LdVxDTReadsTheDelayTimer. -/
theorem test_witness_register_operands : (0 : RegIdx) ≠ vf ∧ (14 : RegIdx) ≠ vf ∧ (14 : RegIdx) ≠ 0 ∧ (0 : RegIdx) ≠ 15 := by
  decide

/-- LD B: bytes outside the triple, below and above it, and past the wrap. -/
theorem test_witness_LdBStoresThreeDigits :
    (∀ k < 3, 0x2FF % 4096 ≠ ((regsI 0x300 []).i.toNat + k) % 4096) ∧
    (∀ k < 3, 0x303 % 4096 ≠ ((regsI 0x300 []).i.toNat + k) % 4096) ∧
    (∀ k < 3, 0x002 % 4096 ≠ ((regsI 0xFFF []).i.toNat + k) % 4096) := by decide

/-- LD [I], Vx: the first and the last register, and bytes on both sides of the block. -/
theorem test_witness_StoreRegsStoresTheBlock : (0 : RegIdx) ≤ 0 ∧ (15 : RegIdx) ≤ 15 ∧
    (∀ k ≤ (15 : RegIdx).val, 0x3FF % 4096 ≠ ((regsI 0x400 []).i.toNat + k) % 4096) ∧
    (∀ k ≤ (15 : RegIdx).val, 0x410 % 4096 ≠ ((regsI 0x400 []).i.toNat + k) % 4096) := by decide

/-- LD Vx, [I]: a register loaded and the first one left. -/
theorem test_witness_LoadRegsLoadsTheBlock : (2 : RegIdx) ≤ 2 ∧ (2 : RegIdx) < 3 := by decide

/-- A state with one sprite row 0xC0 at I, drawn at the top left on a buffer with one pixel set. -/
def drawState : State := ((regsI 0x0300 []).memWrite 0x300 0xC0).setPx (togglePixel blankPixels 0 1)

/-- DRW: a pixel under a set bit, one under none (bit 2 of the row is 0), one that collides, and a draw without. -/
theorem test_witness_DrwXorsTheSprite :
    drawState.SpriteSets (drawState.reg 1) (drawState.reg 2) 1 0 1 ∧
    (¬ drawState.SpriteSets (drawState.reg 1) (drawState.reg 2) 0 0 2) ∧
    (∃ r c, pixelAt drawState.px r c = true ∧ pixelAt (after (.drw 1 2 1) drawState).px r c = false) ∧
    (¬ ∃ r c, pixelAt State.reset.px r c = true ∧ pixelAt (after (.drw 1 2 1) State.reset).px r c = false) ∧
    (14 : RegIdx) ≠ vf := by
  refine ⟨⟨0, 1, by decide⟩, ?_, ⟨0, 1, by decide⟩, ?_, by decide⟩
  · rintro ⟨row, bit, h, -⟩
    omega
  · rintro ⟨r, c, h, -⟩
    simp [State.reset, pixelAt] at h

/-- The reset state under glyph 0, and what a draw of it leaves. -/
def glyphDrawn : State := after (.drw 1 2 5) State.reset

/-- DrawingTwiceCancels: the second draw from the state the first left, and a sprite with and one without set bits. -/
theorem test_witness_DrawingTwiceCancels :
    exec (.drw 1 2 5) State.reset = .next glyphDrawn ∧
    exec (.drw 1 2 5) glyphDrawn = .next (after (.drw 1 2 5) glyphDrawn) ∧ glyphDrawn.px = glyphDrawn.px ∧
    (glyphDrawn.reg 1).toNat % 64 = (State.reset.reg 1).toNat % 64 ∧
    (glyphDrawn.reg 2).toNat % 32 = (State.reset.reg 2).toNat % 32 ∧
    (∀ row < (5 : Fin 16).val, glyphDrawn.memRead (glyphDrawn.i.toNat + row) = State.reset.memRead (State.reset.i.toNat + row)) ∧
    (∀ r c, State.reset.SpriteSets (State.reset.reg 1) (State.reset.reg 2) (5 : Fin 16).val r c →
      pixelAt State.reset.px r c = false) ∧
    (∃ r c, State.reset.SpriteSets (State.reset.reg 1) (State.reset.reg 2) (5 : Fin 16).val r c) ∧
    (¬ ∃ r c, State.reset.SpriteSets (State.reset.reg 1) (State.reset.reg 2) (0 : Fin 16).val r c) := by
  refine ⟨rfl, rfl, rfl, by decide, by decide, by decide, ?_, ⟨0, 0, 0, 0, by decide⟩, ?_⟩
  · intro r c _
    simp [State.reset, pixelAt]
  · rintro ⟨r, c, row, bit, h, -⟩
    exact absurd h (by simp)

/-- DecodeFollowsDisjointRows: two rows, a word that selects a row, and one that selects none. -/
theorem test_witness_DecodeFollowsDisjointRows :
    (∃ r ∈ rows, (0x8126 : Word) &&& r.mask = r.pattern) ∧ (∀ r ∈ rows, (0x5121 : Word) &&& r.mask ≠ r.pattern) := by
  decide

/-- EncodeOfDecodeIsTheWord: a word whose `y` field its instruction ignores. -/
theorem test_witness_EncodeOfDecodeIsTheWord : decode 0x81F6 = some (.shr 1 15) ∧ encode (.shr 1 15) = 0x81F6 := by decide

/-- StepRunsTheDecodedInstruction: the reset state with a program's first word, and one whose word wraps. -/
theorem test_witness_StepRunsTheDecodedInstruction :
    ((State.reset.withFetchWord 16 0x6005).status = .running ∧
      decode (wordOfBytes ((State.reset.withFetchWord 16 0x6005).memRead (State.reset.withFetchWord 16 0x6005).pc.toNat)
        ((State.reset.withFetchWord 16 0x6005).memRead ((State.reset.withFetchWord 16 0x6005).pc.toNat + 1)))
        = some (.ldImm 0 5)) ∧
    ((State.reset.setPc 0xFFFF).status = .running ∧
      decode (wordOfBytes (((State.reset.setPc 0xFFFF).memWrite 0xFFF 0x12).memRead (State.reset.setPc 0xFFFF).pc.toNat)
        (((State.reset.setPc 0xFFFF).memWrite 0xFFF 0x12).memRead ((State.reset.setPc 0xFFFF).pc.toNat + 1)))
        = some (.jp 0x2F0)) := by decide

/-- UnknownWordIsANoOpOrHalts under both policies. -/
theorem test_witness_UnknownWordIsANoOpOrHalts : State.reset.status = .running ∧ decode State.reset.fetchWord = none ∧
    defaultConfig.strictDecode = false ∧ strictConfig.strictDecode = true := by decide

/-- StepReplies: sessions that wait, that are halted, whose step goes on, and whose step raises each of the three
faults, which are the vectors E9, E10, F6, F8 and E6. -/
theorem test_witness_StepReplies :
    (onState (State.reset.setStatus (.waitingForKey 5))).machine.status = .waitingForKey 5 ∧
    (onState (haltedAs .stackOverflow)).machine.status = .halted .stackOverflow ∧
    (State.reset.status = .running ∧ (run1 0x6005 State.reset).map (·.status) = some .running) ∧
    ((stacked 12 0).status = .running ∧ (run1 0x2300 (stacked 12 0)).map (·.status) = some (.halted .stackOverflow)) ∧
    (run1 0x00EE State.reset).map (·.status) = some (.halted .stackUnderflow) ∧
    (nextOf (stepWith strictConfig State.reset)).map (·.status) = some (.halted .unknownOpcode) := by decide

/-- E9, E10: the transaction Step of a waiting and of a halted machine. -/
theorem test_session_step_idle :
    nextOf ((onState (State.reset.setStatus (.waitingForKey 0))).act defaultConfig .step)
      = some (onState (State.reset.setStatus (.waitingForKey 0)), .waiting) ∧
    nextOf ((onState (haltedAs .stackOverflow)).act defaultConfig .step)
      = some (onState (haltedAs .stackOverflow), .fault .stackOverflow none) := by decide +kernel

/-- E1, F6: the transaction Step of a running machine executes the instruction, or faults. -/
theorem test_session_step_running :
    (nextOf ((onState (State.reset.withFetchWord 16 0x6005)).act defaultConfig .step)).map
      (fun a => (a.1.machine.reg 0, a.1.machine.pc, a.2)) = some (5, 0x0202, .ok) ∧
    (nextOf ((onState ((stacked 12 0).withFetchWord 16 0x2300)).act defaultConfig .step)).map
      (fun a => (a.1.machine.pc, a.2)) = some (0x0200, .fault .stackOverflow none) := by decide +kernel

/-- StoreIsSeenByTheNextFetch: M16, and `I` a whole memory above the program counter. -/
theorem test_witness_StoreIsSeenByTheNextFetch : (1 : RegIdx) ≤ 1 ∧
    (regsI 0x0202 [(0, 0x12)]).i.toNat % 4096 = ((regsI 0x0202 [(0, 0x12)]).pc.toNat + 2) % 4096 ∧
    (regsI 0x1202 []).i.toNat % 4096 = ((regsI 0x1202 []).pc.toNat + 2) % 4096 := by decide

/-- JumpToItselfIsAFixedPoint: F2. -/
theorem test_witness_JumpToItselfIsAFixedPoint :
    ((State.reset.setPc 0x206).withFetchWord 16 0x1206).status = .running ∧
    ((State.reset.setPc 0x206).withFetchWord 16 0x1206).fetchInstr = some (.jp 0x206) ∧
    ((State.reset.setPc 0x206).withFetchWord 16 0x1206).pc.toNat = (0x206 : Addr).toNat := by decide

/-- ReturnResumesAfterTheCall: S3, and the deepest call. -/
theorem test_witness_ReturnResumesAfterTheCall : (stacked 0 0).sp.val < 12 ∧ (stacked 11 0).sp.val < 12 ∧
    (after (.call 0x204) (stacked 11 0)).stack = (after (.call 0x204) (stacked 11 0)).stack ∧
    (after .ret (after (.call 0x204) (stacked 11 0))).pc = 0x0202 := by decide

/-- ResetSetsEveryComponent: both ends of the memory above the font, and a slot at each end of the stack. -/
theorem test_witness_ResetSetsEveryComponent : (80 ≤ 80 ∧ 80 < 4096) ∧ (80 ≤ 4095 ∧ 4095 < 4096) ∧
    (1 ≤ 1 ∧ 1 ≤ 12) ∧ (1 ≤ 12 ∧ 12 ≤ 12) := by decide

/-- L1: the transaction Reset leaves what the creation leaves. -/
theorem test_session_reset : nextOf ((onState (((stacked 3 7).memWrite 0x300 1).setDT 4)).act defaultConfig .reset)
    = some (Session.create defaultConfig, .nothing) := by decide +kernel

/-- LoadCopiesTheImage: L2 and L3 on the freshly created machine, the last byte, and addresses on both sides. -/
theorem test_witness_LoadCopiesTheImage : (Session.create defaultConfig).loadOpen = true ∧
    (List.replicate 3584 (0xFF : Byte)).length ≤ 3584 ∧ 3584 < (List.replicate 3585 (0xFF : Byte)).length ∧
    3583 < (List.replicate 3584 (0xFF : Byte)).length ∧ (0x1FF < 4096 ∧ 0x1FF < 0x200) ∧
    (0x202 < 4096 ∧ 0x200 + [(0x22 : Byte), 0x00].length ≤ 0x202) := by
  simp only [List.length_replicate]
  exact ⟨rfl, by decide⟩

/-- LoadIsOpenOnlyInTheLaunch: a closed window, and each transaction that answers. -/
theorem test_witness_LoadIsOpenOnlyInTheLaunch : (onState State.reset).loadOpen = false ∧
    (onState State.reset).act defaultConfig .reset = .next (Session.create defaultConfig, .nothing) ∧
    (onState State.reset).act defaultConfig .tick = .next (onState State.reset, .nothing) ∧
    (Session.create defaultConfig).act defaultConfig .step = .next (onState (State.reset.setPc 0x202), .ok) ∧
    (Session.create defaultConfig).act defaultConfig (.load []) = .next (onState State.reset, .ok) :=
  ⟨rfl, next_of_nextOf (by decide +kernel), next_of_nextOf (by decide +kernel), next_of_nextOf (by decide +kernel),
    next_of_nextOf (by decide +kernel)⟩

/-- LoadIsOpenOnlyInTheLaunch, the open window: it stays open through a Tick, and through a Load that fails (L3). -/
theorem test_witness_LoadStaysOpenInTheLaunch : (Session.create defaultConfig).loadOpen = true ∧
    (Transaction.tick ≠ .step ∧ ∀ bs, Transaction.tick = .load bs → Reply.nothing ≠ .ok) ∧
    (Session.create defaultConfig).act defaultConfig .tick = .next (Session.create defaultConfig, .nothing) ∧
    (Session.create defaultConfig).act defaultConfig (.load (List.replicate 3585 0))
      = .next (Session.create defaultConfig, .fault .loadTooLarge none) := by
  refine ⟨rfl, by simp, next_of_nextOf (by decide +kernel), ?_⟩
  simp only [Session.act, Session.load, Session.create, loadImage, imageFits, List.length_replicate]
  rfl

/-- TickTimersSubtractsWholeTicks: K15, and a duration below one step. -/
theorem test_witness_TickTimersSubtractsWholeTicks :
    (Duration.wf ⟨1, 1⟩ = true ∧ 60 * 1 ≤ 1 * 60 ∧ 1 * 60 < (60 + 1) * 1) ∧
    (Duration.wf ⟨1, 61⟩ = true ∧ 0 * 61 ≤ 1 * 60 ∧ 1 * 60 < (0 + 1) * 61) := by decide

/-- SetInputUpdatesTheLatchAndEndsAWait: a wait that a key ends, one that `none` leaves, and a running machine. -/
theorem test_witness_SetInputUpdatesTheLatchAndEndsAWait :
    ((onState (State.reset.setStatus (.waitingForKey 5))).machine.status = .waitingForKey 5 ∧
      (some 3 : Option KeyCode) = some 3) ∧ (none : Option KeyCode) = none ∧
    (∀ r, (onState State.reset).machine.status ≠ .waitingForKey r) := by
  exact ⟨⟨rfl, rfl⟩, rfl, by decide⟩

/-- StepKeepsTheInvariant: the reset state under both policies, its next state, and a strict halt. -/
theorem test_witness_StepKeepsTheInvariant : State.reset.Inv defaultConfig ∧
    step State.reset = .next (State.reset.setPc 0x202) ∧ State.reset.Inv strictConfig ∧
    stepWith strictConfig State.reset = .next (haltedAs .unknownOpcode) := by
  have h : State.reset.mem.wf := by decide
  exact ⟨⟨h, fun _ => by decide⟩, next_of_nextOf (by decide), ⟨h, fun _ => by decide⟩, next_of_nextOf (by decide)⟩

/-- EveryTransactionKeepsTheInvariant: one transaction from the reset state, and what three transactions reach. -/
theorem test_witness_EveryTransactionKeepsTheInvariant :
    (onState State.reset).machine.Inv defaultConfig ∧
    (onState State.reset).act defaultConfig .tick = .next (onState State.reset, .nothing) ∧
    Session.Reachable defaultConfig
      (onState ((State.reset.memWriteBytes 0x200 [0x60, 0x05]).setPc 0x202 |>.setReg 0 5)) :=
  ⟨test_witness_StepKeepsTheInvariant.1, next_of_nextOf (by decide +kernel),
    [.load [0x60, 0x05], .step, .tick], [.ok, .ok, .nothing], next_of_nextOf (by decide +kernel)⟩

/-- CanonicalMemoryIsUnique: a memory with two listed cells. -/
theorem test_witness_CanonicalMemoryIsUnique : Memory.wf [(0x200, 8), (0x300, 7)] ∧
    ∀ a, Memory.read [(0x200, 8), (0x300, 7)] a = Memory.read [(0x200, 8), (0x300, 7)] a :=
  ⟨by decide, fun _ => rfl⟩

/-- OnlyTheNamedInstructionsWrite: an instruction outside every named list, with its next state. -/
theorem test_witness_OnlyTheNamedInstructionsWrite : exec (.ldImm 0 5) State.reset = .next (after (.ldImm 0 5) State.reset) ∧
    (∀ x, Instr.ldImm 0 5 ≠ .ldBVx x ∧ Instr.ldImm 0 5 ≠ .storeRegs x) ∧
    (Instr.ldImm 0 5 ≠ .cls ∧ ∀ x y n, Instr.ldImm 0 5 ≠ .drw x y n) ∧
    (∀ nnn x, Instr.ldImm 0 5 ≠ .ldI nnn ∧ Instr.ldImm 0 5 ≠ .addIVx x ∧ Instr.ldImm 0 5 ≠ .ldFVx x) ∧
    (Instr.ldImm 0 5 ≠ .ret ∧ ∀ nnn, Instr.ldImm 0 5 ≠ .call nnn) ∧ (∀ x, Instr.ldImm 0 5 ≠ .ldDTVx x) ∧
    (∀ x, Instr.ldImm 0 5 ≠ .ldSTVx x) ∧
    (Instr.ldImm 0 5 ≠ .ret ∧ ∀ nnn x, Instr.ldImm 0 5 ≠ .call nnn ∧ Instr.ldImm 0 5 ≠ .ldVxK x) ∧
    (∀ x nn, Instr.ldImm 0 5 ≠ .rnd x nn) := by
  refine ⟨rfl, ?_⟩
  simp

/-- VfIsWrittenOnlyAsTheSpecNames: a flag instruction and one that is none, each with its next state. -/
theorem test_witness_VfIsWrittenOnlyAsTheSpecNames :
    exec (.addReg 0 1) State.reset = .next (after (.addReg 0 1) State.reset) ∧
    (∃ x y, Instr.addReg 0 1 = .addReg x y) ∧ exec .cls State.reset = .next (after .cls State.reset) ∧
    (∀ x y n, Instr.cls ≠ .addReg x y ∧ Instr.cls ≠ .subReg x y ∧ Instr.cls ≠ .shr x y ∧ Instr.cls ≠ .subnReg x y ∧
      Instr.cls ≠ .shl x y ∧ Instr.cls ≠ .drw x y n) := by
  refine ⟨rfl, ⟨0, 1, rfl⟩, rfl, ?_⟩
  simp

/-- StatusHasOnlyTheseTransitions: each of the four kinds of change happens. -/
theorem test_witness_StatusHasOnlyTheseTransitions :
    ((onState (State.reset.withFetchWord 16 0xF50A)).act defaultConfig .step
      = .next (onState ((State.reset.withFetchWord 16 0xF50A).setPc 0x202 |>.setStatus (.waitingForKey 5)), .ok)) ∧
    ((onState State.reset).act strictConfig .step
      = .next (onState (haltedAs .unknownOpcode), .fault .unknownOpcode (some 0))) ∧
    ((onState (State.reset.setStatus (.waitingForKey 5))).act defaultConfig (.setInput (some 3))
      = .next (onState ((regs [(5, 3)]).setKey (some 3)), .nothing)) ∧
    ((onState (haltedAs .stackOverflow)).act defaultConfig .reset = .next (Session.create defaultConfig, .nothing)) :=
  ⟨next_of_nextOf (by decide +kernel), next_of_nextOf (by decide +kernel), next_of_nextOf (by decide +kernel), next_of_nextOf (by decide +kernel)⟩

/-- HaltedUntilReset: a sequence of five transactions without Reset and Load. -/
theorem test_witness_HaltedUntilReset : (onState (haltedAs .stackOverflow)).machine.status = .halted .stackOverflow ∧
    Transaction.reset ∉ [.step, .tick, .setInput (some 3), .exportFrame, .readDT] ∧
    (∀ bytes, Transaction.load bytes ∉ [.step, .tick, .setInput (some 3), .exportFrame, .readDT]) := by
  refine ⟨rfl, ?_⟩
  simp

/-- WaitingUntilAKeyComes: a sequence of five transactions without Reset, Load and a key. -/
theorem test_witness_WaitingUntilAKeyComes :
    (onState (State.reset.setStatus (.waitingForKey 5))).machine.status = .waitingForKey 5 ∧
    Transaction.reset ∉ [.step, .tick, .setInput none, .exportFrame, .readDT] ∧
    (∀ bytes, Transaction.load bytes ∉ [.step, .tick, .setInput none, .exportFrame, .readDT]) ∧
    (∀ k, Transaction.setInput (some k) ∉ [.step, .tick, .setInput none, .exportFrame, .readDT]) := by
  refine ⟨rfl, ?_⟩
  simp

end Sys2Proof.Tests
end

namespace Sys2Proof.Machine

/-! ## What a Step, an instruction and a transaction can do

Inversion lemmas: if the function answers a next state, one of these cases holds. -/

/-! ### RET and CALL -/

/-- RET pops the return address into `pc`, or raises StackUnderflow (40_control_flow.md R100). -/
theorem execRet_cases {s t : State} (h : execRet s = .next t) :
    (∃ h0 : s.sp.val ≠ 0, t = (s.pop h0).2.setPc (s.pop h0).1) ∨
      (s.sp.val = 0 ∧ t = s.raiseFault .stackUnderflow) := by
  unfold execRet at h
  split at h
  · next h0 => cases h; exact .inl ⟨h0, rfl⟩
  · next h0 => cases h; exact .inr ⟨not_not.mp h0, rfl⟩

/-- CALL pushes the address of the next instruction and jumps, or raises StackOverflow (40_control_flow.md R102). -/
theorem execCall_cases {nnn : Addr} {s t : State} (h : execCall nnn s = .next t) :
    (∃ h12 : s.sp.val < 12, t = (s.push (s.pc + 2) h12).setPc (addrWord nnn)) ∨
      (¬ s.sp.val < 12 ∧ t = s.raiseFault .stackOverflow) := by
  unfold execCall at h
  split at h
  · next h12 => cases h; exact .inl ⟨h12, rfl⟩
  · next h12 => cases h; exact .inr ⟨h12, rfl⟩

/-- RET writes no register (40_control_flow.md R109). -/
theorem execRet_reg {s t : State} (h : execRet s = .next t) (k : RegIdx) : t.reg k = s.reg k := by
  obtain ⟨h0, rfl⟩ | ⟨-, rfl⟩ := execRet_cases h <;> simp

/-- CALL writes no register (40_control_flow.md R109). -/
theorem execCall_reg {nnn : Addr} {s t : State} (h : execCall nnn s = .next t) (k : RegIdx) : t.reg k = s.reg k := by
  obtain ⟨h12, rfl⟩ | ⟨-, rfl⟩ := execCall_cases h <;> simp

/-! ### Writes of VF (10_state.md R22) -/

/-- `resultAndFlag` leaves VF at its flag, the destination VF included (41_alu.md R133). -/
theorem State.reg_vf_resultAndFlag_bit {s : State} {x : RegIdx} {r f : Byte} (hf : f = 0 ∨ f = 1) :
    (s.resultAndFlag x r f).reg vf = 0 ∨ (s.resultAndFlag x r f).reg vf = 1 := by
  simpa using hf

/-- `result` writes VF only as its destination. -/
theorem State.reg_vf_result_or {s : State} {x : RegIdx} {r : Byte} {P : Prop} (hP : x = vf → P) :
    (s.result x r).reg vf = s.reg vf ∨ P := by
  by_cases hx : x = vf
  · exact .inr (hP hx)
  · exact .inl (by simp [Ne.symm hx])

/-- The block load writes VF only as its last register (42_address_memory.md R145). -/
theorem State.reg_vf_loadBlock (s : State) {x : RegIdx} (hx : x ≠ vf) :
    (s.loadBlock (x.val + 1)).reg vf = s.reg vf := by
  have hlt : ¬ vf.val < x.val + 1 := fun h => hx (Fin.ext (by have := x.isLt; simp at h ⊢; omega))
  rw [State.reg_loadBlock s _ x.isLt, if_neg hlt]

/-- Settles O57: each instruction ends in `resultAndFlag` or a draw with a flag of 0 or 1, in `result` or a block
load, which write VF only as a destination, or in updates that touch no register. -/
theorem vfIsWrittenOnlyAsTheSpecNames : Obligations.VfIsWrittenOnlyAsTheSpecNames := by
  intro i s t h
  constructor
  · rintro ⟨x, y, n, rfl | rfl | rfl | rfl | rfl | rfl⟩ <;> cases h
    · exact State.reg_vf_resultAndFlag_bit (carryFlag_bit _ _)
    · exact State.reg_vf_resultAndFlag_bit (noBorrowFlag_bit _ _)
    · exact State.reg_vf_resultAndFlag_bit (lowBitFlag_bit _)
    · exact State.reg_vf_resultAndFlag_bit (noBorrowFlag_bit _ _)
    · exact State.reg_vf_resultAndFlag_bit (highBitFlag_bit _)
    · simpa using collisionFlag_bit _
  · intro hi
    cases i with
    | addReg x y | subReg x y | shr x y | subnReg x y | shl x y | drw x y n => simp at hi
    | ldImm x nn | addImm x nn | rnd x nn =>
      cases h; exact State.reg_vf_result_or fun hx => ⟨nn, 0, by simp [hx]⟩
    | ldReg x y | orReg x y | andReg x y | xorReg x y =>
      cases h; exact State.reg_vf_result_or fun hx => ⟨0, y, by simp [hx]⟩
    | ldVxDT x => cases h; exact State.reg_vf_result_or fun hx => ⟨0, 0, by simp [hx]⟩
    | loadRegs x =>
      cases h
      by_cases hx : x = vf
      · exact .inr ⟨0, 0, by simp [hx]⟩
      · exact .inl (State.reg_vf_loadBlock s hx)
    | ret => exact .inl (execRet_reg h vf)
    | call nnn => exact .inl (execCall_reg h vf)
    | storeRegs x => cases h; exact .inl (State.reg_storeBlock s _ vf)
    | _ => cases h; exact .inl rfl

/-! ### The run state (10_state.md R32) -/

/-- An instruction keeps `status`, unless it is `LD Vx, K` or a RET or CALL that stops with a stack fault. -/
theorem exec_status {i : Instr} {s t : State} (h : exec i s = .next t) :
    t.status = s.status ∨ (∃ x, i = .ldVxK x ∧ t.status = .waitingForKey x) ∨
      (i = .ret ∧ t.status = .halted .stackUnderflow) ∨
      ((∃ nnn, i = .call nnn) ∧ t.status = .halted .stackOverflow) := by
  cases i with
  | ldVxK x => cases h; exact .inr (.inl ⟨x, rfl, rfl⟩)
  | ret =>
    obtain ⟨h0, rfl⟩ | ⟨-, rfl⟩ := execRet_cases h
    · exact .inl rfl
    · exact .inr (.inr (.inl ⟨rfl, rfl⟩))
  | call nnn =>
    obtain ⟨h12, rfl⟩ | ⟨-, rfl⟩ := execCall_cases h
    · exact .inl rfl
    · exact .inr (.inr (.inr ⟨⟨nnn, rfl⟩, rfl⟩))
  | storeRegs x => cases h; exact .inl (State.storeBlock_status s _)
  | loadRegs x => cases h; exact .inl (State.loadBlock_status s _)
  | _ => cases h; exact .inl rfl

/-- A Step executes the fetched instruction, meets an unknown word, or leaves a machine that is not running as it is
(30_encoding.md R80, R84). -/
theorem stepWith_cases {cfg : Config} {s t : State} (h : stepWith cfg s = .next t) :
    (s.status = .running ∧ ∃ i, s.fetchInstr = some i ∧ exec i s = .next t) ∨
      (s.status = .running ∧ s.fetchInstr = none ∧ execUnknown cfg s = .next t) ∨
      (s.status ≠ .running ∧ t = s) := by
  unfold stepWith at h
  split at h
  case h_1 hs =>
    split at h
    · next i hi => exact .inl ⟨hs, i, hi, h⟩
    · next hi => exact .inr (.inl ⟨hs, hi, h⟩)
  case h_2 hs => cases h; exact .inr (.inr ⟨by simp [hs], rfl⟩)
  case h_3 hs => cases h; exact .inr (.inr ⟨by simp [hs], rfl⟩)

/-- An unknown word is a fault under `strict_decode` and a no-op otherwise (30_encoding.md R80). -/
theorem execUnknown_cases {cfg : Config} {s t : State} (h : execUnknown cfg s = .next t) :
    (cfg.strictDecode = true ∧ t = s.raiseFault .unknownOpcode) ∨ (cfg.strictDecode = false ∧ t = s.advance) := by
  unfold execUnknown at h
  split at h
  · next hc => cases h; exact .inl ⟨hc, rfl⟩
  · next hc => cases h; exact .inr ⟨by simpa using hc, rfl⟩

/-- The Step of a machine: `status` stays, or a running machine starts to wait or halts. -/
theorem stepWith_status {cfg : Config} {s t : State} (h : stepWith cfg s = .next t) :
    t.status = s.status ∨
      (s.status = .running ∧ ∃ x, s.fetchInstr = some (.ldVxK x) ∧ t.status = .waitingForKey x) ∨
      (s.status = .running ∧ ∃ c, t.status = .halted c) := by
  obtain ⟨hrun, i, hfetch, hexec⟩ | ⟨hrun, -, hunk⟩ | ⟨-, rfl⟩ := stepWith_cases h
  · obtain hst | ⟨x, rfl, hst⟩ | ⟨-, hst⟩ | ⟨-, hst⟩ := exec_status hexec
    · exact .inl hst
    · exact .inr (.inl ⟨hrun, x, hfetch, hst⟩)
    · exact .inr (.inr ⟨hrun, _, hst⟩)
    · exact .inr (.inr ⟨hrun, _, hst⟩)
  · obtain ⟨-, rfl⟩ | ⟨-, rfl⟩ := execUnknown_cases hunk
    · exact .inr (.inr ⟨hrun, _, rfl⟩)
    · exact .inl rfl
  · exact .inl rfl

@[simp] theorem State.memWriteBytes_status (s : State) (a : Nat) (bs : List Byte) :
    (s.memWriteBytes a bs).status = s.status := by
  rw [State.memWriteBytes_eq]

@[simp] theorem resetMachine_status (cfg : Config) (s : State) : (resetMachine cfg s).status = .running := by
  rw [resetMachine_eq]; rfl

@[simp] theorem ticks_status (k : Nat) (s : State) : (ticks k s).status = s.status := by
  induction k with
  | zero => rfl
  | succ k ih => rw [ticks_succ, tick_status, ih]

@[simp] theorem tickTimers_status (elapsed : Duration) (s : State) : (tickTimers elapsed s).status = s.status :=
  ticks_status _ s

/-- `SetInput` changes `status` only when a key ends a wait (60_exceptions.md R193). -/
theorem setInput_status (k : Option KeyCode) (s : State) :
    (setInput k s).status = s.status ∨
      ∃ x c, k = some c ∧ s.status = .waitingForKey x ∧ (setInput k s).status = .running := by
  cases k with
  | none => exact .inl (by simp [setInput_latch (.inl rfl)])
  | some c =>
    by_cases hw : ∃ x, s.status = .waitingForKey x
    · obtain ⟨x, hx⟩ := hw
      exact .inr ⟨x, c, rfl, hx, by simp [setInput_waiting hx]⟩
    · exact .inl (by simp [setInput_latch (.inr (not_exists.mp hw))])

/-! ### Transactions of a session -/

/-- A Step that answers leaves the machine that `stepWith` leaves. -/
theorem Session.step_machine {cfg : Config} {m m' : Session} {r : Reply} (h : m.step cfg = .next (m', r)) :
    stepWith cfg m.machine = .next m'.machine := by
  unfold Session.step at h
  split at h
  · next t ht => cases h; exact ht
  · cases h
  · cases h

/-- An image is stored whole or is too large (60_exceptions.md R184). -/
theorem loadImage_cases (bytes : List Byte) (s : State) :
    loadImage bytes s = .next (s.memWriteBytes Config.progBase bytes) ∨ loadImage bytes s = .fault .loadTooLarge := by
  unfold loadImage
  split
  · exact .inl rfl
  · exact .inr rfl

/-- A Load that answers has stored the image or changed nothing (70_reset_and_hazards.md R221). -/
theorem Session.load_machine {bytes : List Byte} {m m' : Session} {r : Reply} (h : m.load bytes = .next (m', r)) :
    m'.machine = m.machine.memWriteBytes Config.progBase bytes ∨ m' = m := by
  unfold Session.load at h
  split at h
  · obtain hl | hl := loadImage_cases bytes m.machine <;> rw [hl] at h <;> cases h
    · exact .inl rfl
    · exact .inr rfl
  · cases h

/-- Settles O58, by the kind of transaction: only a Step, SetInput and Reset touch `status`. -/
theorem statusHasOnlyTheseTransitions : Obligations.StatusHasOnlyTheseTransitions := by
  intro cfg t m m' r h
  cases t with
  | reset => cases h; exact .inr (.inr (.inr (.inr ⟨rfl, resetMachine_status cfg m.machine⟩)))
  | load bytes =>
    obtain hm | rfl := Session.load_machine h
    · exact .inl (by rw [hm, State.memWriteBytes_status])
    · exact .inl rfl
  | step =>
    obtain hst | ⟨hrun, hwait⟩ | ⟨hrun, hhalt⟩ := stepWith_status (Session.step_machine h)
    · exact .inl hst
    · exact .inr (.inl ⟨rfl, hrun, hwait⟩)
    · exact .inr (.inr (.inl ⟨rfl, hrun, hhalt⟩))
  | setInput k =>
    cases h
    obtain hst | ⟨x, c, rfl, hwait, hst⟩ := setInput_status k m.machine
    · exact .inl hst
    · exact .inr (.inr (.inr (.inl ⟨x, c, rfl, hwait, hst⟩)))
  | tickTimers elapsed => cases h; exact .inl (tickTimers_status elapsed m.machine)
  | tick | exportFrame | soundActive | readDT | readST | readStatus => cases h; exact .inl rfl

end Sys2Proof.Machine

namespace Sys2Proof.Machine

/-! ## What each instruction may change

Each instruction gets its frame from the operations its meaning is written over. -/

/-! ### Frames of the ways to end an instruction -/

theorem State.setPc_onlyChanges (s : State) (a : Word) : OnlyChanges [.programCounter] s (s.setPc a) := by
  apply onlyChanges_of <;> simp

theorem State.skipIf_onlyChanges (s : State) (c : Bool) : OnlyChanges [.programCounter] s (s.skipIf c) :=
  State.setPc_onlyChanges s _

theorem State.result_onlyChanges (s : State) (x : RegIdx) (r : Byte) :
    OnlyChanges [.registers, .programCounter] s (s.result x r) := by
  apply onlyChanges_of <;> simp

theorem State.resultAndFlag_onlyChanges (s : State) (x : RegIdx) (r f : Byte) :
    OnlyChanges [.registers, .programCounter] s (s.resultAndFlag x r f) := by
  apply onlyChanges_of <;> simp

theorem State.setI_advance_onlyChanges (s : State) (a : Word) :
    OnlyChanges [.addressRegister, .programCounter] s (s.setI a).advance := by
  apply onlyChanges_of <;> simp

/-! ### The frame of every instruction -/

/-- The components an instruction may change, the faults of RET and CALL included (60_exceptions.md R188). -/
def mayChange : Instr → List Component
  | .jp _ | .jpV0 _ | .seImm _ _ | .sneImm _ _ | .seReg _ _ | .sneReg _ _ | .skp _ | .sknp _ => [.programCounter]
  | .call _ => [.programCounter, .stackSlots, .stackPointer, .runStatus]
  | .ret => [.programCounter, .stackPointer, .runStatus]
  | .ldImm _ _ | .addImm _ _ | .ldReg _ _ | .orReg _ _ | .andReg _ _ | .xorReg _ _ | .addReg _ _ | .subReg _ _
  | .shr _ _ | .subnReg _ _ | .shl _ _ | .ldVxDT _ | .loadRegs _ => [.registers, .programCounter]
  | .rnd _ _ => [.registers, .programCounter, .drawCounter]
  | .ldI _ | .addIVx _ | .ldFVx _ => [.addressRegister, .programCounter]
  | .ldBVx _ | .storeRegs _ => [.memory, .programCounter]
  | .cls => [.pixels, .redrawFlag, .programCounter]
  | .drw _ _ _ => [.registers, .pixels, .redrawFlag, .programCounter]
  | .ldVxK _ => [.runStatus, .programCounter]
  | .ldDTVx _ => [.delayTimer, .programCounter]
  | .ldSTVx _ => [.soundTimer, .programCounter]

/-- An instruction changes no component outside `mayChange`, by the operations it ends in. -/
theorem exec_onlyChanges {i : Instr} {s t : State} (h : exec i s = .next t) : OnlyChanges (mayChange i) s t := by
  cases i with
  | jp nnn | jpV0 nnn => cases h; exact State.setPc_onlyChanges s _
  | seImm x nn | sneImm x nn | seReg x y | sneReg x y | skp x | sknp x =>
    cases h; exact State.skipIf_onlyChanges s _
  | ldImm x nn | addImm x nn | ldReg x y | orReg x y | andReg x y | xorReg x y | ldVxDT x =>
    cases h; exact State.result_onlyChanges s x _
  | addReg x y | subReg x y | shr x y | subnReg x y | shl x y =>
    cases h; exact State.resultAndFlag_onlyChanges s x _ _
  | ldI nnn | addIVx x | ldFVx x => cases h; exact State.setI_advance_onlyChanges s _
  | ret => obtain ⟨h0, rfl⟩ | ⟨-, rfl⟩ := execRet_cases h <;> apply onlyChanges_of <;> simp [mayChange]
  | call nnn => obtain ⟨h12, rfl⟩ | ⟨-, rfl⟩ := execCall_cases h <;> apply onlyChanges_of <;> simp [mayChange]
  | rnd x nn | cls | drw x y n | ldVxK x | ldDTVx x | ldSTVx x | ldBVx x | storeRegs x | loadRegs x =>
    cases h; apply onlyChanges_of <;> simp [mayChange]

/-- Settles O56: each clause is the frame of `exec`, with the component looked up in `mayChange` for every
instruction. -/
theorem onlyTheNamedInstructionsWrite : Obligations.OnlyTheNamedInstructionsWrite := by
  intro i s t h
  have frame := exec_onlyChanges h
  refine ⟨fun hi => frame .memory ?_, fun hi => ⟨frame .pixels ?_, frame .redrawFlag ?_⟩,
    fun hi => frame .addressRegister ?_, fun hi => ⟨frame .stackPointer ?_, frame .stackSlots ?_⟩,
    fun hi => frame .delayTimer ?_, fun hi => frame .soundTimer ?_, frame .pendingKey ?_,
    fun hi => frame .runStatus ?_, fun hi => frame .drawCounter ?_⟩
  all_goals clear frame h; cases i <;> simp_all [mayChange]

/-! ## Canonical memories (log entry 4) -/

/-- In a memory with rising addresses, the listed byte of an address is the byte of its one cell. -/
theorem Memory.lookup_eq_some_iff {m : Memory} (h : m.Pairwise fun p q => p.1 < q.1) (a : Nat) (b : Byte) :
    m.lookup a = some b ↔ (a, b) ∈ m := by
  induction m with
  | nil => simp [Memory.lookup]
  | cons p m ih =>
    obtain ⟨k, c⟩ := p
    obtain ⟨hlt, hm⟩ := List.pairwise_cons.1 h
    by_cases hk : k = a
    · subst hk
      have hnot : (k, b) ∉ m := fun hmem => lt_irrefl k (hlt _ hmem)
      simp [Memory.lookup, hnot, eq_comm]
    · simp [Memory.lookup, hk, Ne.symm hk, ih hm]

/-- The cells of a canonical memory are told by what it reads: an address is listed, with the byte read there, exactly
when that byte is not the reset one. -/
theorem Memory.mem_iff_read {m : Memory} (h : m.wf) (a : Nat) (b : Byte) :
    (a, b) ∈ m ↔ m.read a = b ∧ b ≠ resetByte a := by
  obtain ⟨hlt, hcell⟩ := h
  have hne : m.lookup a = some b → b ≠ resetByte a := fun hl => (hcell _ ((Memory.lookup_eq_some_iff hlt a b).1 hl)).2
  rw [← Memory.lookup_eq_some_iff hlt]
  unfold Memory.read
  cases hl : m.lookup a with
  | none => simpa using Eq.symm
  | some c => simpa [hl] using hne

/-- Settles O55: the two memories have the same cells, and a list is known by its cells when the addresses rise. -/
theorem canonicalMemoryIsUnique : Obligations.CanonicalMemoryIsUnique := by
  intro m m' hm hm' hread
  have hcells : ∀ p : Host.Cell, p ∈ m ↔ p ∈ m' := fun ⟨a, b⟩ => by
    rw [Memory.mem_iff_read hm, Memory.mem_iff_read hm', hread]
  exact hm.1.eq_of_mem_iff hm'.1 hcells

/-! ## A store over the next instruction (20_memory.md R62) -/

/-- `MemRead` reduces its address modulo 4096 (20_memory.md R52). -/
theorem State.memRead_of_mod_eq (s : State) {a c : Nat} (h : a % 4096 = c % 4096) : s.memRead a = s.memRead c := by
  simp only [State.memRead, effAddr_eq, h]

/-- After a block store, any address that is `I + j` modulo 4096 reads register `j`. -/
theorem State.memRead_storeBlock_of_mod_eq (s : State) {k j c : Nat} (hj : j < k) (hk : k ≤ 4096)
    (hc : c % 4096 = (s.i.toNat + j) % 4096) : (s.storeBlock k).memRead c = s.reg (Fin.ofNat 16 j) :=
  (State.memRead_of_mod_eq _ hc).trans (State.memRead_storeBlock s k j hj hk)

/-- Settles O40: the next fetch reads the bytes at `I` and `I + 1`, where the block store left V[0] and V[1]. -/
theorem storeIsSeenByTheNextFetch : Obligations.StoreIsSeenByTheNextFetch := by
  intro x s hx hi
  refine ⟨_, rfl, ?_⟩
  have hx1 : 1 ≤ x.val := hx
  have hpc : (s.pc + 2).toNat = (s.pc.toNat + 2) % 65536 := by simp
  have hhi : (s.storeBlock (x.val + 1)).memRead (s.pc + 2).toNat = s.reg 0 :=
    State.memRead_storeBlock_of_mod_eq s (j := 0) (by omega) (by omega) (by omega)
  have hlo : (s.storeBlock (x.val + 1)).memRead ((s.pc + 2).toNat + 1) = s.reg 1 :=
    State.memRead_storeBlock_of_mod_eq s (j := 1) (by omega) (by omega) (by omega)
  simp only [State.fetchWord, State.advance_pc, State.storeBlock_pc, State.memRead_advance, hhi, hlo]

end Sys2Proof.Machine

namespace Sys2Proof

/-! ## The rows of the opcode map (30_encoding.md R75, R76) -/

theorem Row.selects_iff (r : Row) (w : Word) : r.selects w = true ↔ w &&& r.mask = r.pattern := beq_iff_eq

/-- Two rows are apart when their patterns differ on a bit that both masks look at. -/
def Row.Apart (a b : Row) : Prop := a.pattern &&& b.mask ≠ b.pattern &&& a.mask

theorem Row.Apart.symm {a b : Row} (h : a.Apart b) : b.Apart a := Ne.symm h

/-- No word selects two rows that are apart: under both masks it would be both patterns. -/
theorem Row.Apart.not_both {a b : Row} (h : a.Apart b) (w : Word) : ¬ (a.selects w = true ∧ b.selects w = true) := by
  rw [Row.selects_iff, Row.selects_iff]
  rintro ⟨ha, hb⟩
  apply h
  rw [← ha, ← hb, BitVec.and_assoc, BitVec.and_assoc, BitVec.and_comm a.mask]

theorem rows_pairwise_apart : rows.Pairwise Row.Apart := by
  unfold Row.Apart
  decide

/-- A word selects at most one row (R75). -/
theorem Row.eq_of_selects {a b : Row} {w : Word} (ha : a ∈ rows) (hb : b ∈ rows) (haw : a.selects w = true)
    (hbw : b.selects w = true) : a = b := by
  have : Std.Symm Row.Apart := ⟨fun _ _ => Row.Apart.symm⟩
  by_contra hne
  exact (rows_pairwise_apart.forall ha hb hne).not_both w ⟨haw, hbw⟩

/-! ## Decode is the row a word selects (R75) -/

theorem mem_and_selects_of_rowOf {r : Row} {w : Word} (h : rowOf w = some r) : r ∈ rows ∧ r.selects w = true :=
  ⟨List.mem_of_find?_eq_some h, List.find?_some (p := (Row.selects · w)) h⟩

theorem decode_of_selects {r : Row} {w : Word} (hr : r ∈ rows) (hw : r.selects w = true) :
    decode w = some (r.build w) := by
  unfold decode
  cases hfind : rowOf w with
  | none => exact absurd hw (List.find?_eq_none.1 hfind r hr)
  | some a =>
    obtain ⟨ha, haw⟩ := mem_and_selects_of_rowOf hfind
    rw [Row.eq_of_selects ha hr haw hw, Option.map_some]

theorem decode_eq_none_iff (w : Word) : decode w = none ↔ ∀ r ∈ rows, ¬ r.selects w = true := by
  rw [decode, rowOf, Option.map_eq_none_iff, List.find?_eq_none]

theorem decode_eq_some_iff (w : Word) (i : Instr) :
    decode w = some i ↔ ∃ r ∈ rows, r.selects w = true ∧ r.build w = i := by
  constructor
  · intro h
    obtain ⟨r, hfind, hi⟩ := Option.map_eq_some_iff.1 h
    obtain ⟨hr, hw⟩ := mem_and_selects_of_rowOf hfind
    exact ⟨r, hr, hw, hi⟩
  · rintro ⟨r, hr, hw, rfl⟩
    exact decode_of_selects hr hw

/-- Settles O31: the rows are apart two by two, so a word selects at most the row that decode finds. -/
theorem decodeFollowsDisjointRows : Obligations.DecodeFollowsDisjointRows := by
  refine ⟨rfl, rows_pairwise_apart.imp Row.Apart.not_both, fun w r hr hw => ?_, fun w hw => ?_⟩
  · exact decode_of_selects hr ((r.selects_iff w).2 hw)
  · exact (decode_eq_none_iff w).2 fun r hr => mt (r.selects_iff w).1 (hw r hr)

/-! ## Decode of encode -/

/-- The word of every instruction selects the row of its mnemonic, which builds the instruction back. -/
theorem encode_inRow (i : Instr) : Laws.InRow.Statement i := by
  cases i with
  | cls => exact Laws.InRow.cls
  | ret => exact Laws.InRow.ret
  | jp nnn => exact Laws.InRow.jp nnn
  | call nnn => exact Laws.InRow.call nnn
  | seImm x nn => exact Laws.InRow.seImm x nn
  | sneImm x nn => exact Laws.InRow.sneImm x nn
  | seReg x y => exact Laws.InRow.seReg x y
  | ldImm x nn => exact Laws.InRow.ldImm x nn
  | addImm x nn => exact Laws.InRow.addImm x nn
  | ldReg x y => exact Laws.InRow.ldReg x y
  | orReg x y => exact Laws.InRow.orReg x y
  | andReg x y => exact Laws.InRow.andReg x y
  | xorReg x y => exact Laws.InRow.xorReg x y
  | addReg x y => exact Laws.InRow.addReg x y
  | subReg x y => exact Laws.InRow.subReg x y
  | shr x y => exact Laws.InRow.shr x y
  | subnReg x y => exact Laws.InRow.subnReg x y
  | shl x y => exact Laws.InRow.shl x y
  | sneReg x y => exact Laws.InRow.sneReg x y
  | ldI nnn => exact Laws.InRow.ldI nnn
  | jpV0 nnn => exact Laws.InRow.jpV0 nnn
  | rnd x nn => exact Laws.InRow.rnd x nn
  | drw x y n => exact Laws.InRow.drw x y n
  | skp x => exact Laws.InRow.skp x
  | sknp x => exact Laws.InRow.sknp x
  | ldVxDT x => exact Laws.InRow.ldVxDT x
  | ldVxK x => exact Laws.InRow.ldVxK x
  | ldDTVx x => exact Laws.InRow.ldDTVx x
  | ldSTVx x => exact Laws.InRow.ldSTVx x
  | addIVx x => exact Laws.InRow.addIVx x
  | ldFVx x => exact Laws.InRow.ldFVx x
  | ldBVx x => exact Laws.InRow.ldBVx x
  | storeRegs x => exact Laws.InRow.storeRegs x
  | loadRegs x => exact Laws.InRow.loadRegs x

theorem decode_encode (i : Instr) : decode (encode i) = some i := by
  obtain ⟨r, hr, -, hw, hi⟩ := encode_inRow i
  exact (decode_eq_some_iff _ _).2 ⟨r, hr, hw, hi⟩

/-- The two bytes of a word, high byte first, make the word again (20_memory.md R54). -/
theorem wordOfBytes_bytes (w : Word) : wordOfBytes (w.extractLsb 15 8) (w.extractLsb 7 0) = w :=
  (BitVec.extractLsb'_append_extractLsb'_eq_extractLsb' (start₁ := 0) (len₁ := 8) rfl).trans
    BitVec.extractLsb'_eq_self

/-- The bytes of a word that decodes decode to its instruction, and what follows is left over. -/
theorem decodeBytes_of_decode {w : Word} {i : Instr} (h : decode w = some i) (rest : List Byte) :
    decodeBytes (bytesOfWord w ++ rest) = .ok (i, rest) := by
  simp only [bytesOfWord, List.cons_append, List.nil_append, decodeBytes, wordOfBytes_bytes, h]

/-- Settles O33: the word of an instruction selects the row that builds it back, and its bytes are read in the order
they are written in. -/
theorem decodeOfEncodeIsTheInstruction : Obligations.DecodeOfEncodeIsTheInstruction :=
  fun i => ⟨decode_encode i, decodeBytes_of_decode (decode_encode i)⟩

/-- Settles O30: each word is the encoding of the instruction it decodes to, and 0000 selects no row. -/
theorem specWordsDecode : Obligations.SpecWordsDecode :=
  ⟨decode_encode .cls, decode_encode (.call 0x210), decode_encode (.ldImm 0 0x05), decode_encode (.subnReg 1 2),
    decode_encode (.ldI 0x300), decode_encode (.drw 1 2 5), decode_encode (.sknp 0), decode_encode (.storeRegs 3),
    by decide⟩

/-! ## Encode of decode -/

/-- Every mask looks at the major opcode and at the low 0, 4, 8 or 12 bits, so that it keeps this number. -/
theorem toNat_and_mask (w : Word) (k : Nat) (hk : k ≤ 12) :
    (w &&& (0xF000 ||| BitVec.ofNat 16 (2 ^ k - 1))).toNat = w.toNat / 0x1000 * 0x1000 + w.toNat % 2 ^ k := by
  have hpow : 2 ^ k ≤ 2 ^ 12 := Nat.pow_le_pow_right (by decide) hk
  have hlow : (w &&& BitVec.ofNat 16 (2 ^ k - 1)).toNat = w.toNat % 2 ^ k := by
    rw [BitVec.toNat_and, BitVec.toNat_ofNat, Nat.mod_eq_of_lt (by omega), Nat.and_two_pow_sub_one_eq_mod]
  have hhigh : (w &&& 0xF000).toNat = 2 ^ 12 * (w.toNat / 0x1000) := by
    rw [and_F000, BitVec.toNat_ofNat]; omega
  have hlt : w.toNat % 2 ^ k < 2 ^ 12 := (Nat.mod_lt _ (Nat.two_pow_pos k)).trans_le hpow
  rw [BitVec.and_or_distrib_left, BitVec.toNat_or, hlow, hhigh, ← Nat.two_pow_add_eq_or_of_lt hlt, Nat.mul_comm]

/-- The shape of every row: a mask of the major opcode and the low `k` bits, and a pattern that fits it. -/
theorem rows_shape : ∀ r ∈ rows, ∃ k ≤ 12, r.mask = 0xF000 ||| BitVec.ofNat 16 (2 ^ k - 1) ∧
    r.mask.toNat % 0x1000 + 1 = 2 ^ k ∧ r.pattern.toNat % 0x1000 < 2 ^ k := by
  have hshape : ∀ r ∈ rows, ∃ k ∈ [0, 4, 8, 12], r.mask = 0xF000 ||| BitVec.ofNat 16 (2 ^ k - 1) ∧
    r.mask.toNat % 0x1000 + 1 = 2 ^ k ∧ r.pattern.toNat % 0x1000 < 2 ^ k := by decide
  intro r hr
  obtain ⟨k, hk, h⟩ := hshape r hr
  exact ⟨k, by revert k; simp, h⟩

/-- What a row asks of a word, as arithmetic: its major opcode, and its low bits under the mask. -/
theorem selects_iff_op_minor {r : Row} (hr : r ∈ rows) (w : Word) :
    r.selects w = true ↔ w.toNat / 0x1000 = r.pattern.toNat / 0x1000 ∧
      w.toNat % (r.mask.toNat % 0x1000 + 1) = r.pattern.toNat % 0x1000 := by
  obtain ⟨k, hk, hmask, hspan, hpat⟩ := rows_shape r hr
  have hpow : 2 ^ k ≤ 2 ^ 12 := Nat.pow_le_pow_right (by decide) hk
  have hlt := Nat.mod_lt w.toNat (Nat.two_pow_pos k)
  rw [Row.selects_iff, hspan, hmask, ← BitVec.toNat_inj, toNat_and_mask w k hk]
  omega

theorem eq_of_op_minor {v w : Word} (hop : w.toNat / 0x1000 = v.toNat / 0x1000)
    (hminor : w.toNat % 0x1000 = v.toNat % 0x1000) : v = w := by
  apply BitVec.eq_of_toNat_eq; omega

theorem encodeA_fieldNNN {op : Nat} {w : Word} (hop : w.toNat / 0x1000 = op) : encodeA op (fieldNNN w) = w := by
  apply BitVec.eq_of_toNat_eq
  rw [encodeA, BitVec.toNat_ofNat, fieldNNN_toNat]; omega

theorem encodeI_fields {op : Nat} {w : Word} (hop : w.toNat / 0x1000 = op) :
    encodeI op (fieldX w) (fieldNN w) = w := by
  apply BitVec.eq_of_toNat_eq
  rw [encodeI, BitVec.toNat_ofNat, fieldX_val, fieldNN_toNat]; omega

theorem encodeR_fields {op : Nat} {w : Word} {n : Fin 16} (hop : w.toNat / 0x1000 = op) (hn : w.toNat % 16 = n.val) :
    encodeR op (fieldX w) (fieldY w) n = w := by
  apply BitVec.eq_of_toNat_eq
  rw [encodeR, BitVec.toNat_ofNat, fieldX_val, fieldY_val]; omega

theorem encodeX_fieldX {op minor : Nat} {w : Word} (hop : w.toNat / 0x1000 = op) (hm : w.toNat % 0x100 = minor) :
    encodeX op (fieldX w) minor = w := by
  apply BitVec.eq_of_toNat_eq
  rw [encodeX, BitVec.toNat_ofNat, fieldX_val]; omega

/-- The instruction a row builds from a word it asks for is encoded as that word, format by format (R74). -/
theorem encode_build_of_op_minor (w : Word) : ∀ r ∈ rows, w.toNat / 0x1000 = r.pattern.toNat / 0x1000 →
    w.toNat % (r.mask.toNat % 0x1000 + 1) = r.pattern.toNat % 0x1000 → encode (r.build w) = w := by
  simp only [rows, rowsLow, rowsReg, rowsHigh, List.cons_append, List.nil_append, List.forall_mem_cons]
  refine ⟨?cls, ?ret, ?jp, ?call, ?seImm, ?sneImm, ?seReg, ?ldImm, ?addImm, ?ldReg, ?orReg, ?andReg, ?xorReg,
    ?addReg, ?subReg, ?shr, ?subnReg, ?shl, ?sneReg, ?ldI, ?jpV0, ?rnd, ?drw, ?skp, ?sknp, ?ldVxDT, ?ldVxK,
    ?ldDTVx, ?ldSTVx, ?addIVx, ?ldFVx, ?ldBVx, ?storeRegs, ?loadRegs, List.forall_mem_nil _⟩ <;> intro hop hminor
  case cls | ret => exact eq_of_op_minor hop hminor
  case jp | call | ldI | jpV0 => exact encodeA_fieldNNN hop
  case seImm | sneImm | ldImm | addImm | rnd => exact encodeI_fields hop
  case seReg | ldReg | orReg | andReg | xorReg | addReg | subReg | shr | subnReg | shl | sneReg =>
    exact encodeR_fields hop hminor
  case drw => exact encodeR_fields hop (fieldN_val w).symm
  case skp | sknp | ldVxDT | ldVxK | ldDTVx | ldSTVx | addIVx | ldFVx | ldBVx | storeRegs | loadRegs =>
    exact encodeX_fieldX hop hminor

/-- Settles O34: the word selects the row that built its instruction, and the fields kept by the row and the bits
fixed by it are all its bits. -/
theorem encodeOfDecodeIsTheWord : Obligations.EncodeOfDecodeIsTheWord := by
  intro w i h
  obtain ⟨r, hr, hw, rfl⟩ := (decode_eq_some_iff w i).1 h
  obtain ⟨hop, hminor⟩ := (selects_iff_op_minor hr w).1 hw
  exact encode_build_of_op_minor w r hr hop hminor

/-! ## The unknown words (R79) -/

theorem decode_eq_none_iff_op_minor (w : Word) : decode w = none ↔
    ∀ r ∈ rows, ¬ (w.toNat / 0x1000 = r.pattern.toNat / 0x1000 ∧
      w.toNat % (r.mask.toNat % 0x1000 + 1) = r.pattern.toNat % 0x1000) :=
  (decode_eq_none_iff w).trans (forall₂_congr fun _ hr => not_congr (selects_iff_op_minor hr w))

/-- Settles O32, by the major opcode: it leaves a few rows, whose minor opcodes are the ones the class excepts. Only
for 8xyN does the spec list the digits N of the unknown words instead. -/
theorem unknownWordsAreExactlyThese : Obligations.UnknownWordsAreExactlyThese := by
  intro w
  have hlt : w.toNat / 0x1000 < 16 := by omega
  rw [decode_eq_none_iff_op_minor]
  simp only [rows, rowsLow, rowsReg, rowsHigh, List.cons_append, List.nil_append, List.forall_mem_cons]
  generalize w.toNat / 0x1000 = op at hlt ⊢
  obtain rfl | h8 := eq_or_ne op 8
  · simp; omega
  · interval_cases op <;> simp [Nat.mod_one] at h8 ⊢

end Sys2Proof

namespace Sys2Proof.Machine

/-! ## The fetched word and the Step transaction (30_encoding.md R71, R80, R84) -/

theorem wordOfBytes_toNat (hi lo : Byte) : (wordOfBytes hi lo).toNat = hi.toNat * 0x100 + lo.toNat := by
  rw [wordOfBytes, BitVec.toNat_append, ← Nat.shiftLeft_add_eq_or_of_lt lo.isLt, Nat.shiftLeft_eq]

/-- Settles O35: `MemRead` reduces both addresses, and the first byte is the high one. -/
theorem fetchIsBigEndianAndWraps : Obligations.FetchIsBigEndianAndWraps :=
  fun s => wordOfBytes_toNat (s.memRead s.pc.toNat) (s.memRead (s.pc.toNat + 1))

theorem stepWith_of_decode {cfg : Config} {s : State} {i : Instr} (hrun : s.status = .running)
    (hi : decode s.fetchWord = some i) : stepWith cfg s = exec i s := by
  simp only [stepWith, hrun, State.fetchInstr, hi]

theorem stepWith_of_unknown {cfg : Config} {s : State} (hrun : s.status = .running)
    (hw : decode s.fetchWord = none) : stepWith cfg s = execUnknown cfg s := by
  simp only [stepWith, hrun, State.fetchInstr, hw]

theorem stepWith_of_not_running {cfg : Config} {s : State} (h : s.status ≠ .running) :
    stepWith cfg s = .next s := by
  cases hs : s.status with
  | running => exact absurd hs h
  | waitingForKey x => simp only [stepWith, hs, stepWaiting]
  | halted c => simp only [stepWith, hs, stepHalted]

/-- Settles O36: the two bytes are the fetched word, and `step` is the Step of the default configuration. -/
theorem stepRunsTheDecodedInstruction : Obligations.StepRunsTheDecodedInstruction :=
  fun _ _ _ hrun hi => ⟨stepWith_of_decode hrun hi, stepWith_of_decode hrun hi⟩

theorem execUnknown_lenient {cfg : Config} (h : cfg.strictDecode = false) (s : State) :
    execUnknown cfg s = .next s.advance := by
  simp [execUnknown, h]

theorem execUnknown_strict {cfg : Config} (h : cfg.strictDecode = true) (s : State) :
    execUnknown cfg s = .next (s.raiseFault .unknownOpcode) := by
  simp [execUnknown, h]

/-- Taking a fault changes `status` alone (60_exceptions.md R188). -/
theorem State.raiseFault_onlyChanges (s : State) (c : HaltCause) : OnlyChanges [.runStatus] s (s.raiseFault c) := by
  apply onlyChanges_of <;> simp

/-- Settles O37: the Step of an unknown word is an advance or a fault, by the policy. -/
theorem unknownWordIsANoOpOrHalts : Obligations.UnknownWordIsANoOpOrHalts := by
  intro cfg s hrun hw
  rw [stepWith_of_unknown hrun hw]
  constructor
  · intro hlenient
    exact ⟨_, execUnknown_lenient hlenient s, by simp, State.setPc_onlyChanges s _⟩
  · intro hstrict
    exact ⟨_, execUnknown_strict hstrict s, rfl, State.raiseFault_onlyChanges s _⟩

/-! ### A Step always answers a next state (60_exceptions.md R185) -/

theorem exec_answers (i : Instr) (s : State) : ∃ t, exec i s = .next t := by
  cases i with
  | ret =>
    by_cases h0 : s.sp.val ≠ 0
    · exact ⟨_, dif_pos h0⟩
    · exact ⟨_, dif_neg h0⟩
  | call nnn =>
    by_cases h12 : s.sp.val < 12
    · exact ⟨_, dif_pos h12⟩
    · exact ⟨_, dif_neg h12⟩
  | _ => exact ⟨_, rfl⟩

theorem execUnknown_answers (cfg : Config) (s : State) : ∃ t, execUnknown cfg s = .next t := by
  cases h : cfg.strictDecode with
  | false => exact ⟨_, execUnknown_lenient h s⟩
  | true => exact ⟨_, execUnknown_strict h s⟩

theorem stepWith_answers (cfg : Config) (s : State) : ∃ t, stepWith cfg s = .next t := by
  by_cases hrun : s.status = .running
  · cases hw : decode s.fetchWord with
    | some i => rw [stepWith_of_decode hrun hw]; exact exec_answers i s
    | none => rw [stepWith_of_unknown hrun hw]; exact execUnknown_answers cfg s
  · exact ⟨s, stepWith_of_not_running hrun⟩

/-! ### A Step that ends halted, and the replies (30_encoding.md R84) -/

/-- An instruction that halts a machine has raised a fault and done nothing else. -/
theorem exec_eq_raiseFault {i : Instr} {s t : State} {c : HaltCause} (hrun : s.status = .running)
    (h : exec i s = .next t) (hc : t.status = .halted c) : t = s.raiseFault c := by
  obtain hst | ⟨x, -, hst⟩ | ⟨rfl, -⟩ | ⟨⟨nnn, rfl⟩, -⟩ := exec_status h
  · simp [hc, hrun] at hst
  · simp [hc] at hst
  · obtain ⟨h0, rfl⟩ | ⟨-, rfl⟩ := execRet_cases h
    · simp [hrun] at hc
    · cases hc; rfl
  · obtain ⟨h12, rfl⟩ | ⟨-, rfl⟩ := execCall_cases h
    · simp [hrun] at hc
    · cases hc; rfl

/-- A Step that halts a running machine has raised a fault and done nothing else (60_exceptions.md R188). -/
theorem stepWith_eq_raiseFault {cfg : Config} {s t : State} {c : HaltCause} (hrun : s.status = .running)
    (h : stepWith cfg s = .next t) (hc : t.status = .halted c) : t = s.raiseFault c := by
  obtain ⟨-, i, -, hexec⟩ | ⟨-, -, hunk⟩ | ⟨hnot, -⟩ := stepWith_cases h
  · exact exec_eq_raiseFault hrun hexec hc
  · obtain ⟨-, rfl⟩ | ⟨-, rfl⟩ := execUnknown_cases hunk
    · cases hc; rfl
    · simp [hrun] at hc
  · exact absurd hrun hnot

theorem reportedWord_eq (s : State) (c : HaltCause) :
    reportedWord s c = if c = .unknownOpcode then some s.fetchWord else none := by
  cases c <;> rfl

theorem stepReply_of_waiting {s : State} {x : RegIdx} (h : s.status = .waitingForKey x) (t : State) :
    stepReply s t = .waiting := by
  simp only [stepReply, h]

theorem stepReply_of_halted {s : State} {c : HaltCause} (h : s.status = .halted c) (t : State) :
    stepReply s t = .fault c.toFault none := by
  simp only [stepReply, h]

theorem stepReply_ok {s t : State} (hrun : s.status = .running) (h : ∀ c, t.status ≠ .halted c) :
    stepReply s t = .ok := by
  cases ht : t.status with
  | running | waitingForKey x => simp only [stepReply, hrun, ht]
  | halted c => exact absurd ht (h c)

theorem stepReply_fault {s t : State} {c : HaltCause} (hrun : s.status = .running) (h : t.status = .halted c) :
    stepReply s t = .fault c.toFault (if c = .unknownOpcode then some s.fetchWord else none) := by
  simp only [stepReply, hrun, h, reportedWord_eq]

/-- The transaction Step of a session, from the Step of its machine. -/
theorem Session.act_step {cfg : Config} {m : Session} {t : State} (h : stepWith cfg m.machine = .next t) :
    m.act cfg .step = .next (⟨t, false⟩, stepReply m.machine t) := by
  simp only [Session.act, Session.step, h]

/-- Settles O38, by the machine's `status` before the Step and after it. -/
theorem stepReplies : Obligations.StepReplies := by
  intro cfg m
  obtain ⟨t, ht⟩ := stepWith_answers cfg m.machine
  have hidle (hnot : m.machine.status ≠ .running) : t = m.machine := by
    rw [stepWith_of_not_running hnot] at ht
    cases ht; rfl
  refine ⟨t, _, ht, Session.act_step ht, rfl, fun x hx => ?_, fun c hc => ?_, stepReply_ok, fun hrun c hc => ?_⟩
  · exact ⟨hidle (by simp [hx]), stepReply_of_waiting hx t⟩
  · exact ⟨hidle (by simp [hc]), stepReply_of_halted hc t⟩
  · refine ⟨?_, stepReply_fault hrun hc⟩
    rw [stepWith_eq_raiseFault hrun ht hc]
    exact State.raiseFault_onlyChanges m.machine c

end Sys2Proof.Machine

namespace Sys2Proof.Machine

/-! ## Control flow (40_control_flow.md) -/

/-! ### Jumps (R101, R107) -/

@[simp] theorem addrWord_toNat (nnn : Addr) : (addrWord nnn).toNat = nnn.toNat :=
  BitVec.toNat_setWidth_of_le (by decide)

@[simp] theorem byteWord_toNat (b : Byte) : (byteWord b).toNat = b.toNat :=
  BitVec.toNat_setWidth_of_le (by decide)

/-- A byte and an address are too small for their sum to wrap (R107). -/
theorem byteWord_add_addrWord_toNat (b : Byte) (nnn : Addr) :
    (byteWord b + addrWord nnn).toNat = b.toNat + nnn.toNat := by
  rw [BitVec.toNat_add, byteWord_toNat, addrWord_toNat]
  omega

/-- Settles O2: the jump is one write of `pc`. -/
theorem jpSetsPcToItsAddress : Obligations.JpSetsPcToItsAddress :=
  fun nnn => ⟨decode_encode (.jp nnn), fun s => ⟨_, rfl, addrWord_toNat nnn, State.setPc_onlyChanges s _⟩⟩

/-- Settles O6: the jump is one write of `pc`, with a sum that does not wrap. -/
theorem jpV0AddsRegisterZero : Obligations.JpV0AddsRegisterZero :=
  fun nnn => ⟨decode_encode (.jpV0 nnn),
    fun s => ⟨_, rfl, byteWord_add_addrWord_toNat (s.reg 0) nnn, State.setPc_onlyChanges s _⟩⟩

/-! ### Skips (R103 to R106) -/

theorem State.skipIf_pc_toNat (s : State) (c : Bool) :
    (s.skipIf c).pc.toNat = (s.pc.toNat + if c then 4 else 2) % 65536 := by
  rw [State.skipIf_pc, BitVec.toNat_add]
  cases c <;> rfl

theorem State.skipIf_beq_pc_toNat (s : State) (a b : Byte) :
    (s.skipIf (a == b)).pc.toNat = (s.pc.toNat + if a.toNat = b.toNat then 4 else 2) % 65536 := by
  simp only [State.skipIf_pc_toNat, beq_iff_eq, BitVec.toNat_inj]

theorem State.skipIf_bne_pc_toNat (s : State) (a b : Byte) :
    (s.skipIf (a != b)).pc.toNat = (s.pc.toNat + if a.toNat = b.toNat then 2 else 4) % 65536 := by
  simp only [State.skipIf_pc_toNat, bne_iff_ne, ne_eq, ite_not, BitVec.toNat_inj]

/-- Settles O4: SE skips on equal and SNE on unequal, and a skip writes `pc` alone. -/
theorem seSneImmediateSkipOneWord : Obligations.SeSneImmediateSkipOneWord :=
  fun x nn => ⟨decode_encode (.seImm x nn), decode_encode (.sneImm x nn),
    fun s => ⟨_, rfl, State.skipIf_beq_pc_toNat s (s.reg x) nn, State.skipIf_onlyChanges s _⟩,
    fun s => ⟨_, rfl, State.skipIf_bne_pc_toNat s (s.reg x) nn, State.skipIf_onlyChanges s _⟩⟩

/-- Settles O5: the skips of O4, with a second register for the immediate. -/
theorem seSneRegisterSkipOneWord : Obligations.SeSneRegisterSkipOneWord :=
  fun x y => ⟨decode_encode (.seReg x y), decode_encode (.sneReg x y),
    fun s => ⟨_, rfl, State.skipIf_beq_pc_toNat s (s.reg x) (s.reg y), State.skipIf_onlyChanges s _⟩,
    fun s => ⟨_, rfl, State.skipIf_bne_pc_toNat s (s.reg x) (s.reg y), State.skipIf_onlyChanges s _⟩⟩

/-! ### CALL and RET (R100, R102) -/

theorem exec_call_of_lt {s : State} (nnn : Addr) (h : s.sp.val < 12) :
    exec (.call nnn) s = .next ((s.push (s.pc + 2) h).setPc (addrWord nnn)) :=
  dif_pos h

theorem exec_call_of_full {s : State} (nnn : Addr) (h : ¬ s.sp.val < 12) :
    exec (.call nnn) s = .next (s.raiseFault .stackOverflow) :=
  dif_neg h

theorem exec_ret_of_ne_zero {s : State} (h : s.sp.val ≠ 0) :
    exec .ret s = .next ((s.pop h).2.setPc (s.slot s.sp.val ⟨by omega, by omega⟩)) :=
  dif_pos h

theorem exec_ret_of_zero {s : State} (h : s.sp.val = 0) :
    exec .ret s = .next (s.raiseFault .stackUnderflow) :=
  dif_neg (not_not.mpr h)

theorem State.push_setPc_onlyChanges (s : State) (a dest : Word) (h : s.sp.val < 12) :
    OnlyChanges [.programCounter, .stackPointer, .stackSlots] s ((s.push a h).setPc dest) := by
  apply onlyChanges_of <;> simp

theorem State.pop_setPc_onlyChanges (s : State) (dest : Word) (h : s.sp.val ≠ 0) :
    OnlyChanges [.programCounter, .stackPointer] s ((s.pop h).2.setPc dest) := by
  apply onlyChanges_of <;> simp

/-- Settles O3, by the room on the stack: a push and a jump, or the fault. -/
theorem callPushesTheNextAddress : Obligations.CallPushesTheNextAddress := by
  intro nnn
  refine ⟨decode_encode (.call nnn), fun s h => ?_, fun s hfull => ?_⟩
  · refine ⟨_, exec_call_of_lt nnn h, rfl, ?_, fun k hk hne => ?_, addrWord_toNat nnn,
      State.push_setPc_onlyChanges s _ _ h⟩
    · rw [State.slot_setPc, State.slot_push, if_pos rfl]
      exact BitVec.toNat_add s.pc 2
    · rw [State.slot_setPc, State.slot_push, if_neg hne]
  · exact ⟨_, exec_call_of_full nnn (by omega), rfl, State.raiseFault_onlyChanges s _⟩

/-- Settles O1, by whether the stack is empty: a pop into `pc`, or the fault. -/
theorem retJumpsToThePoppedAddress : Obligations.RetJumpsToThePoppedAddress := by
  refine ⟨decode_encode .ret, fun s h => ?_, fun s hzero => ?_⟩
  · have hne : s.sp.val ≠ 0 := by omega
    exact ⟨_, exec_ret_of_ne_zero hne, rfl, rfl, State.pop_setPc_onlyChanges s _ hne⟩
  · exact ⟨_, exec_ret_of_zero hzero, rfl, State.raiseFault_onlyChanges s _⟩

/-- Settles O42: RET pops the slot that CALL pushed, and `sp` goes up and down by one. -/
theorem returnResumesAfterTheCall : Obligations.ReturnResumesAfterTheCall := by
  intro nnn s h
  refine ⟨_, exec_call_of_lt nnn h, fun u hstack hsp => ?_⟩
  have hval : u.sp.val = s.sp.val + 1 := by rw [hsp]; rfl
  have htop : u.slot u.sp.val ⟨by omega, by omega⟩ = s.pc + 2 := by
    rw [State.slot_congr hstack, State.slot_setPc, State.slot_push, if_pos hval]
  refine ⟨_, exec_ret_of_ne_zero (by omega), ?_, Fin.ext (Nat.sub_eq_of_eq_add hval)⟩
  rw [State.setPc_pc, htop]
  exact BitVec.toNat_add s.pc 2

end Sys2Proof.Machine

namespace Sys2Proof.Machine

/-! ## Registers, arithmetic, logic, random (41_alu.md) -/

/-- The register words of major opcode 8, written minor opcode first, are those `encodeR` writes (30_encoding.md R74). -/
theorem ofNat_eq_encodeR_eight (x y : RegIdx) (n : Fin 16) :
    BitVec.ofNat 16 (0x8000 + n.val + x.val * 0x100 + y.val * 0x10) = encodeR 0x8 x y n :=
  congrArg (BitVec.ofNat 16) (by omega)

/-- A register word of major opcode 8 decodes to the instruction it encodes. -/
theorem decode_regWord {i : Instr} (x y : RegIdx) (n : Fin 16) (h : encode i = encodeR 0x8 x y n) :
    decode (BitVec.ofNat 16 (0x8000 + n.val + x.val * 0x100 + y.val * 0x10)) = some i := by
  rw [ofNat_eq_encodeR_eight, ← h, decode_encode]

/-! ### Results without a flag (R120 to R125) -/

theorem State.reg_result_self (s : State) (x : RegIdx) (r : Byte) : (s.result x r).reg x = r := by
  rw [State.reg_result, if_pos rfl]

theorem State.reg_result_of_ne (s : State) {x k : RegIdx} (r : Byte) (h : k ≠ x) :
    (s.result x r).reg k = s.reg k := by
  rw [State.reg_result, if_neg h]

theorem State.result_pc_toNat (s : State) (x : RegIdx) (r : Byte) :
    (s.result x r).pc.toNat = (s.pc.toNat + 2) % 65536 :=
  BitVec.toNat_add s.pc 2

/-- What `result` does beside its write of `V[x]`. -/
theorem State.result_frame (s : State) (x : RegIdx) (r : Byte) :
    (∀ k, k ≠ x → (s.result x r).reg k = s.reg k) ∧ (s.result x r).pc.toNat = (s.pc.toNat + 2) % 65536 ∧
      OnlyChanges [.registers, .programCounter] s (s.result x r) :=
  ⟨fun _ => State.reg_result_of_ne s r, State.result_pc_toNat s x r, State.result_onlyChanges s x r⟩

/-- Settles O7: `result` writes the immediate. -/
theorem ldImmediateWritesTheRegister : Obligations.LdImmediateWritesTheRegister :=
  fun x nn => ⟨decode_encode (.ldImm x nn),
    fun s => ⟨_, rfl, State.reg_result_self s x nn, State.result_frame s x nn⟩⟩

/-- Settles O8: `result` writes the 8-bit sum. -/
theorem addImmediateWrapsWithoutFlag : Obligations.AddImmediateWrapsWithoutFlag := by
  refine fun x nn => ⟨decode_encode (.addImm x nn), fun s => ⟨_, rfl, ?_, State.result_frame s x _⟩⟩
  rw [State.reg_result_self]
  exact BitVec.toNat_add (s.reg x) nn

/-- Settles O9: `result` writes the value read from `V[y]`. -/
theorem ldRegisterCopies : Obligations.LdRegisterCopies :=
  fun x y => ⟨decode_regWord x y 0 rfl,
    fun s => ⟨_, rfl, State.reg_result_self s x (s.reg y), State.result_frame s x (s.reg y)⟩⟩

/-- Settles O10: `result` writes the word operation, which works bit by bit. -/
theorem logicIsBitwiseWithoutFlag : Obligations.LogicIsBitwiseWithoutFlag := by
  refine fun x y => ⟨decode_regWord x y 1 rfl, decode_regWord x y 2 rfl, decode_regWord x y 3 rfl,
    fun s => ⟨_, rfl, fun j => ?_, State.result_frame s x _⟩,
    fun s => ⟨_, rfl, fun j => ?_, State.result_frame s x _⟩,
    fun s => ⟨_, rfl, fun j => ?_, State.result_frame s x _⟩⟩
  · rw [State.reg_result_self, BitVec.getLsbD_or]
  · rw [State.reg_result_self, BitVec.getLsbD_and]
  · rw [State.reg_result_self, BitVec.getLsbD_xor]

/-! ### Results with a flag (R126 to R130) -/

theorem State.reg_vf_resultAndFlag (s : State) (x : RegIdx) (r f : Byte) : (s.resultAndFlag x r f).reg vf = f := by
  rw [State.reg_resultAndFlag, if_pos rfl]

/-- A destination other than VF holds the result: the flag does not overwrite it (R133). -/
theorem State.reg_resultAndFlag_self (s : State) {x : RegIdx} (r f : Byte) (hx : x ≠ vf) :
    (s.resultAndFlag x r f).reg x = r := by
  rw [State.reg_resultAndFlag, if_neg hx, if_pos rfl]

/-- What `resultAndFlag` does beside its writes of `V[x]` and VF. -/
theorem State.resultAndFlag_frame (s : State) (x : RegIdx) (r f : Byte) :
    (∀ k, k ≠ x → k ≠ vf → (s.resultAndFlag x r f).reg k = s.reg k) ∧
      (s.resultAndFlag x r f).pc.toNat = (s.pc.toNat + 2) % 65536 ∧
      OnlyChanges [.registers, .programCounter] s (s.resultAndFlag x r f) := by
  refine ⟨fun k hx hvf => ?_, BitVec.toNat_add s.pc 2, State.resultAndFlag_onlyChanges s x r f⟩
  rw [State.reg_resultAndFlag, if_neg hvf, if_neg hx]

/-- The 8-bit difference is the difference of the numbers modulo 256, a negative one included. -/
theorem byte_sub_toNat (a b : Byte) : ((a - b).toNat : Int) = (a.toNat - b.toNat : Int) % 256 := by
  rw [BitVec.toNat_sub]
  omega

theorem byte_ushiftRight_one_toNat (a : Byte) : (a >>> 1).toNat = a.toNat / 2 := by
  rw [BitVec.toNat_ushiftRight, Nat.shiftRight_eq_div_pow, Nat.pow_one]

theorem byte_shiftLeft_one_toNat (a : Byte) : (a <<< 1).toNat = a.toNat * 2 % 256 := by
  rw [BitVec.toNat_shiftLeft, Nat.shiftLeft_eq, Nat.pow_one]

/-- Settles O11: the result is the 8-bit sum, the flag its carry. -/
theorem addRegistersSetsCarry : Obligations.AddRegistersSetsCarry := by
  refine fun x y => ⟨decode_regWord x y 4 rfl,
    fun s => ⟨_, rfl, fun hx => ?_, ?_, State.resultAndFlag_frame s x _ _⟩⟩
  · rw [State.reg_resultAndFlag_self s _ _ hx]
    exact BitVec.toNat_add (s.reg x) (s.reg y)
  · rw [State.reg_vf_resultAndFlag, carryFlag_eq]

/-- Settles O12: the result is the 8-bit difference, the flag says that it did not borrow. -/
theorem subRegistersSetsNoBorrow : Obligations.SubRegistersSetsNoBorrow := by
  refine fun x y => ⟨decode_regWord x y 5 rfl,
    fun s => ⟨_, rfl, fun hx => ?_, ?_, State.resultAndFlag_frame s x _ _⟩⟩
  · rw [State.reg_resultAndFlag_self s _ _ hx, byte_sub_toNat]
  · rw [State.reg_vf_resultAndFlag, noBorrowFlag_eq]

/-- Settles O13: the result is the right shift of `V[x]`, the flag the bit it moves out. -/
theorem shrMovesTheLowBitToVf : Obligations.ShrMovesTheLowBitToVf := by
  refine fun x y => ⟨decode_regWord x y 6 rfl,
    fun s => ⟨_, rfl, fun hx => ?_, ?_, State.resultAndFlag_frame s x _ _⟩⟩
  · rw [State.reg_resultAndFlag_self s _ _ hx, byte_ushiftRight_one_toNat]
  · rw [State.reg_vf_resultAndFlag, lowBitFlag_toNat]

/-- Settles O14: SUB with its operands swapped, into the same destination. -/
theorem subnSubtractsTheOtherWay : Obligations.SubnSubtractsTheOtherWay := by
  refine fun x y => ⟨decode_regWord x y 7 rfl,
    fun s => ⟨_, rfl, fun hx => ?_, ?_, State.resultAndFlag_frame s x _ _⟩⟩
  · rw [State.reg_resultAndFlag_self s _ _ hx, byte_sub_toNat]
  · rw [State.reg_vf_resultAndFlag, noBorrowFlag_eq]

/-- Settles O15: the result is the left shift of `V[x]`, the flag the bit it moves out. -/
theorem shlMovesTheHighBitToVf : Obligations.ShlMovesTheHighBitToVf := by
  refine fun x y => ⟨decode_regWord x y 0xE rfl,
    fun s => ⟨_, rfl, fun hx => ?_, ?_, State.resultAndFlag_frame s x _ _⟩⟩
  · rw [State.reg_resultAndFlag_self s _ _ hx, byte_shiftLeft_one_toNat]
  · rw [State.reg_vf_resultAndFlag, highBitFlag_toNat]

/-! ### The random byte (R131) -/

/-- Settles O16: `result` writes the masked byte into the state after the draw, which differs in its counter alone. -/
theorem rndMasksAFreeByte : Obligations.RndMasksAFreeByte := by
  refine fun x nn => ⟨decode_encode (.rnd x nn), fun s => ⟨_, rfl, fun j => ?_, fun k hk => ?_, rfl,
    State.result_pc_toNat s.nextDraw x _, exec_onlyChanges (i := .rnd x nn) rfl⟩⟩
  · rw [State.reg_result_self]
    exact BitVec.getLsbD_and
  · rw [State.reg_result_of_ne _ _ hk, State.reg_nextDraw]

end Sys2Proof.Machine

namespace Sys2Proof.Machine

/-! ## Address register and memory (42_address_memory.md) -/

/-- A word of format X, written minor opcode first, decodes to the instruction it encodes (30_encoding.md R74). -/
theorem decode_formatX {i : Instr} (op : Nat) (x : RegIdx) (minor : Nat) (h : encode i = encodeX op x minor) :
    decode (BitVec.ofNat 16 (op * 0x1000 + minor + x.val * 0x100)) = some i := by
  rw [Nat.add_right_comm, ← encodeX, ← h, decode_encode]

theorem State.advance_pc_toNat (s : State) : s.advance.pc.toNat = (s.pc.toNat + 2) % 65536 :=
  BitVec.toNat_add s.pc 2

/-! ### Writes of `I` (R140 to R142) -/

/-- What an instruction that ends in a write of `I` does beside it. -/
theorem State.setI_frame (s : State) (a : Word) :
    (s.setI a).advance.pc.toNat = (s.pc.toNat + 2) % 65536 ∧
      OnlyChanges [.addressRegister, .programCounter] s (s.setI a).advance :=
  ⟨State.advance_pc_toNat (s.setI a), State.setI_advance_onlyChanges s a⟩

/-- The glyph address is five times the low nibble: it is too small to wrap (R142). -/
theorem glyphAddr_toNat (b : Byte) : (glyphAddr b).toNat = 5 * (b.toNat % 16) := by
  have hnibble : (b &&& 0x0F).toNat = b.toNat % 16 :=
    (BitVec.toNat_and b 0x0F).trans (Nat.and_two_pow_sub_one_eq_mod b.toNat 4)
  rw [glyphAddr, hnibble, BitVec.toNat_ofNat]
  exact Nat.mod_eq_of_lt (by omega : 5 * (b.toNat % 16) < 65536)

/-- Settles O17: `I` gets the zero-extended operand. -/
theorem ldISetsTheAddress : Obligations.LdISetsTheAddress :=
  fun nnn => ⟨decode_encode (.ldI nnn), fun s => ⟨_, rfl, addrWord_toNat nnn, State.setI_frame s _⟩⟩

/-- Settles O18: `I` gets the 16-bit sum with the zero-extended byte. -/
theorem addIWrapsAtSixteenBits : Obligations.AddIWrapsAtSixteenBits := by
  refine fun x => ⟨decode_formatX 0xF x 0x1E rfl, fun s => ⟨_, rfl, ?_, State.setI_frame s _⟩⟩
  rw [State.advance_i, State.setI_i, BitVec.toNat_add, byteWord_toNat]

/-- Settles O19: `I` gets the glyph address. -/
theorem ldFPointsAtTheGlyph : Obligations.LdFPointsAtTheGlyph :=
  fun x => ⟨decode_formatX 0xF x 0x29 rfl,
    fun s => ⟨_, rfl, glyphAddr_toNat (s.reg x), State.setI_frame s _⟩⟩

/-! ### The glyph rows in memory after Reset (10_state.md R31) -/

/-- The font stored from address 0 up reads back byte by byte. -/
theorem State.memRead_memWriteBytes_font (s : State) (font : Vector Byte 80) {k : Nat} (hk : k < 80) :
    (s.memWriteBytes 0 font.toList).memRead k = font[k] := by
  have hlen : font.toList.length = 80 := font.length_toList
  have hread := State.memRead_memWriteBytes s 0 font.toList (by omega) k (by omega)
  rw [Nat.zero_add] at hread
  exact hread.trans (Vector.getElem_toList _)

/-- Settles O43: `I` is the place of the glyph in the font, which Reset stored from address 0 up. -/
theorem glyphRowsStandWhereLdFPoints : Obligations.GlyphRowsStandWhereLdFPoints := by
  refine fun cfg x b row => ⟨_, rfl, ?_⟩
  have hpoint : (glyphAddr (((State.resetWith cfg).setReg x b).reg x)).toNat = 5 * (b.toNat % 16) := by
    rw [State.reg_setReg, if_pos rfl, glyphAddr_toNat]
  rw [State.advance_i, State.setI_i, hpoint, State.memRead_advance, State.memRead_setI, State.memRead_setReg]
  exact State.memRead_memWriteBytes_font State.reset cfg.font (by omega)

/-! ### The three digits (R143) -/

theorem hundredsDigit_toNat (b : Byte) : (hundredsDigit b).toNat = b.toNat / 100 :=
  Nat.mod_eq_of_lt (by omega)

theorem tensDigit_toNat (b : Byte) : (tensDigit b).toNat = b.toNat / 10 % 10 :=
  Nat.mod_eq_of_lt (by omega)

theorem onesDigit_toNat (b : Byte) : (onesDigit b).toNat = b.toNat % 10 :=
  Nat.mod_eq_of_lt (by omega)

/-- The digits of a byte in the order of their addresses. -/
def digitBytes (b : Byte) : List Byte := [hundredsDigit b, tensDigit b, onesDigit b]

@[simp] theorem digitBytes_length (b : Byte) : (digitBytes b).length = 3 := rfl

/-- The three writes of `LD B, Vx` store its list of digits from `I` up. -/
theorem exec_ldBVx (x : RegIdx) (s : State) :
    exec (.ldBVx x) s = .next (s.memWriteBytes s.i.toNat (digitBytes (s.reg x))).advance := rfl

/-- The digit stored at `I + k`. -/
theorem State.memRead_digitBytes (s : State) (b : Byte) (k : Nat) (hk : k < 3) :
    (s.memWriteBytes s.i.toNat (digitBytes b)).memRead (s.i.toNat + k) = (digitBytes b)[k] :=
  State.memRead_memWriteBytes s s.i.toNat (digitBytes b) (by simp) k hk

/-- Settles O20: each address of the list of digits reads its digit, and every other address is as before. -/
theorem ldBStoresThreeDigits : Obligations.LdBStoresThreeDigits := by
  refine fun x => ⟨decode_formatX 0xF x 0x33 rfl, fun s => ⟨_, exec_ldBVx x s, ?_, ?_, ?_, fun a ha => ?_, ?_,
    exec_onlyChanges (exec_ldBVx x s)⟩⟩
  · rw [State.memRead_advance, State.memRead_digitBytes s _ 0 (by decide)]
    exact hundredsDigit_toNat (s.reg x)
  · rw [State.memRead_advance, State.memRead_digitBytes s _ 1 (by decide)]
    exact tensDigit_toNat (s.reg x)
  · rw [State.memRead_advance, State.memRead_digitBytes s _ 2 (by decide)]
    exact onesDigit_toNat (s.reg x)
  · rw [State.memRead_advance]
    exact State.memRead_memWriteBytes_of_ne s _ _ a fun k hk => (ha k hk).symm
  · exact State.advance_pc_toNat _

/-! ### The register block (R144, R145) -/

/-- Settles O21: the block store leaves each register at its address and every other byte as before. -/
theorem storeRegsStoresTheBlock : Obligations.StoreRegsStoresTheBlock := by
  refine fun x => ⟨decode_formatX 0xF x 0x55 rfl, fun s => ⟨_, rfl, fun k hk => ?_, fun a ha => ?_, ?_,
    exec_onlyChanges (i := .storeRegs x) rfl⟩⟩
  · have hkx : k.val < x.val + 1 := Nat.lt_succ_of_le hk
    rw [State.memRead_advance, State.memRead_storeBlock s _ k.val hkx (by omega), Fin.ofNat_val_eq_self]
  · rw [State.memRead_advance]
    exact State.memRead_storeBlock_of_ne s _ a fun k hk => (ha k (Nat.le_of_lt_succ hk)).symm
  · rw [State.advance_pc_toNat, State.storeBlock_pc]

/-- Settles O22: the block load fills the registers up to `x` and leaves those above. -/
theorem loadRegsLoadsTheBlock : Obligations.LoadRegsLoadsTheBlock := by
  refine fun x => ⟨decode_formatX 0xF x 0x65 rfl, fun s => ⟨_, rfl, fun k hk => ?_, fun k hk => ?_, ?_,
    exec_onlyChanges (i := .loadRegs x) rfl⟩⟩
  · have hkx : k.val < x.val + 1 := Nat.lt_succ_of_le hk
    rw [State.reg_advance, State.reg_loadBlock s _ (by omega), if_pos hkx]
    rfl
  · have hxk : ¬ k.val < x.val + 1 := Nat.not_lt_of_le hk
    rw [State.reg_advance, State.reg_loadBlock s _ (by omega), if_neg hxk]
  · rw [State.advance_pc_toNat, State.loadBlock_pc]

end Sys2Proof.Machine

namespace Sys2Proof.Machine

/-! ## The display (43_display.md) -/

/-- A frame may be read over a longer list. -/
theorem OnlyChanges.mono {cs ds : List Component} {s t : State} (h : OnlyChanges cs s t) (hsub : cs ⊆ ds) :
    OnlyChanges ds s t :=
  fun c hc => h c fun hm => hc (hsub hm)

/-- Settles O23: CLS stores the blank buffer. -/
theorem clsBlanksTheBuffer : Obligations.ClsBlanksTheBuffer :=
  ⟨decode_encode .cls, fun _ => ⟨_, rfl, pixelAt_blankPixels, rfl, State.advance_pc_toNat _,
    exec_onlyChanges (i := .cls) rfl⟩⟩

/-! ### What a draw does to a pixel, and when it collides (R151) -/

/-- The sprite has a set bit on a set pixel. -/
def State.SpriteHits (s : State) (x0 y0 : Byte) (n : Nat) : Prop :=
  ∃ r c, s.SpriteSets x0 y0 n r c ∧ pixelAt s.px r c = true

theorem State.drawSprite_hit_iff (s : State) (x0 y0 : Byte) (n : Fin 16) :
    (s.drawSprite x0 y0 n.val).2 = true ↔ s.SpriteHits x0 y0 n.val := by
  rw [State.drawSprite, (s.drawRows_spec x0 y0 n.val n.isLt.le _).2]
  exact or_iff_right Bool.false_ne_true

section
variable {x y : RegIdx} {n : Fin 16} {s t : State}

theorem exec_drw_px (h : exec (.drw x y n) s = .next t) : t.px = (s.drawSprite (s.reg x) (s.reg y) n.val).1 := by
  cases h; rfl

theorem exec_drw_reg (h : exec (.drw x y n) s = .next t) (k : RegIdx) :
    t.reg k = if k = vf then collisionFlag (s.drawSprite (s.reg x) (s.reg y) n.val).2 else s.reg k := by
  cases h; simp

theorem exec_drw_pixelAt_of_sets (h : exec (.drw x y n) s = .next t) {r : Fin 32} {c : Fin 64}
    (hset : s.SpriteSets (s.reg x) (s.reg y) n.val r c) : pixelAt t.px r c = !pixelAt s.px r c := by
  rw [exec_drw_px h, State.drawSprite, (s.drawRows_spec _ _ n.val n.isLt.le _).1]
  simp [hset]

theorem exec_drw_pixelAt_of_not_sets (h : exec (.drw x y n) s = .next t) {r : Fin 32} {c : Fin 64}
    (hset : ¬ s.SpriteSets (s.reg x) (s.reg y) n.val r c) : pixelAt t.px r c = pixelAt s.px r c := by
  rw [exec_drw_px h, State.drawSprite, (s.drawRows_spec _ _ n.val n.isLt.le _).1]
  simp [hset]

theorem exec_drw_vf_of_hits (h : exec (.drw x y n) s = .next t)
    (hhit : s.SpriteHits (s.reg x) (s.reg y) n.val) : t.reg vf = 1 := by
  rw [exec_drw_reg h, if_pos rfl, (s.drawSprite_hit_iff _ _ n).2 hhit]
  rfl

theorem exec_drw_vf_of_not_hits (h : exec (.drw x y n) s = .next t)
    (hhit : ¬ s.SpriteHits (s.reg x) (s.reg y) n.val) : t.reg vf = 0 := by
  rw [exec_drw_reg h, if_pos rfl, Bool.eq_false_iff.2 (mt (s.drawSprite_hit_iff _ _ n).1 hhit)]
  rfl

/-- The sprite hits exactly when the draw unsets a pixel: only a covered pixel changes. -/
theorem exec_drw_unsets_iff (h : exec (.drw x y n) s = .next t) :
    (∃ r c, pixelAt s.px r c = true ∧ pixelAt t.px r c = false) ↔ s.SpriteHits (s.reg x) (s.reg y) n.val := by
  constructor
  · rintro ⟨r, c, hs, ht⟩
    by_cases hset : s.SpriteSets (s.reg x) (s.reg y) n.val r c
    · exact ⟨r, c, hset, hs⟩
    · rw [exec_drw_pixelAt_of_not_sets h hset, hs] at ht
      contradiction
  · rintro ⟨r, c, hset, hs⟩
    exact ⟨r, c, hs, by rw [exec_drw_pixelAt_of_sets h hset, hs]; rfl⟩

end

/-- Settles O24: `drawRows_spec` says what becomes of each pixel, and the collision it notes is a pixel unset. -/
theorem drwXorsTheSprite : Obligations.DrwXorsTheSprite := by
  refine fun x y n => ⟨decode_encode (.drw x y n), fun s => ?_⟩
  obtain ⟨t, h⟩ : ∃ t, exec (.drw x y n) s = .next t := ⟨_, rfl⟩
  refine ⟨t, h, fun r c => exec_drw_pixelAt_of_sets h, fun r c => exec_drw_pixelAt_of_not_sets h,
    fun hun => exec_drw_vf_of_hits h ((exec_drw_unsets_iff h).1 hun),
    fun hun => exec_drw_vf_of_not_hits h (mt (exec_drw_unsets_iff h).2 hun),
    fun k hk => by rw [exec_drw_reg h, if_neg hk], ?_, ?_, (exec_onlyChanges h).mono (by simp [mayChange])⟩
  · cases h; rfl
  · cases h; exact State.advance_pc_toNat _

/-! ### A second draw (R152) -/

/-- Which pixels a sprite covers depends on its bytes and on the coordinates modulo the dimensions only. -/
theorem State.spriteSets_congr {s u : State} {x0 y0 x1 y1 : Byte} {n : Nat} (hx : x1.toNat % 64 = x0.toNat % 64)
    (hy : y1.toNat % 32 = y0.toNat % 32)
    (hbytes : ∀ row < n, u.memRead (u.i.toNat + row) = s.memRead (s.i.toNat + row)) (r : Fin 32) (c : Fin 64) :
    u.SpriteSets x1 y1 n r c ↔ s.SpriteSets x0 y0 n r c := by
  refine exists_congr fun row => exists_congr fun bit => and_congr_right fun hrow => and_congr_right fun _ => ?_
  rw [hbytes row hrow, Nat.add_mod, hy, ← Nat.add_mod, Nat.add_mod x1.toNat, hx, ← Nat.add_mod]

/-- Settles O25: both draws cover the same pixels, so the second inverts those the first inverted; under a sprite that
hit nothing the first draw set every covered pixel, and the second hits each of them. -/
theorem drawingTwiceCancels : Obligations.DrawingTwiceCancels := by
  intro x y x' y' n s t u w h1 h2 hpx hx hy hbytes
  have hcover := State.spriteSets_congr hx hy hbytes
  refine ⟨pixelBuffer_ext fun r c => ?_, fun hclear => ⟨?_, ?_, ?_⟩⟩
  · by_cases hset : s.SpriteSets (s.reg x) (s.reg y) n.val r c
    · rw [exec_drw_pixelAt_of_sets h2 ((hcover r c).2 hset), hpx, exec_drw_pixelAt_of_sets h1 hset, Bool.not_not]
    · rw [exec_drw_pixelAt_of_not_sets h2 (mt (hcover r c).1 hset), hpx, exec_drw_pixelAt_of_not_sets h1 hset]
  · refine exec_drw_vf_of_not_hits h1 ?_
    rintro ⟨r, c, hset, hs⟩
    exact Bool.false_ne_true ((hclear r c hset).symm.trans hs)
  · rintro ⟨r, c, hset⟩
    have hdrawn : pixelAt u.px r c = true := by rw [hpx, exec_drw_pixelAt_of_sets h1 hset, hclear r c hset]; rfl
    exact exec_drw_vf_of_hits h2 ⟨r, c, (hcover r c).2 hset, hdrawn⟩
  · intro hnone
    refine exec_drw_vf_of_not_hits h2 ?_
    rintro ⟨r, c, hset, -⟩
    exact hnone ⟨r, c, (hcover r c).1 hset⟩

end Sys2Proof.Machine

namespace Sys2Proof.Machine

/-! ## Keys and timers (44_keys_timers.md) -/

/-! ### Key skips (R160, R161) -/

/-- The comparison takes all 8 bits, and an empty latch matches no value (D18). -/
theorem State.keyIs_iff (s : State) (b : Byte) : s.keyIs b = true ↔ s.key.map Fin.val = some b.toNat := by
  unfold State.keyIs
  cases s.key with
  | none => simp
  | some k => simp

theorem State.skipIf_keyIs_pc_toNat (s : State) (b : Byte) :
    (s.skipIf (s.keyIs b)).pc.toNat = (s.pc.toNat + if s.key.map Fin.val = some b.toNat then 4 else 2) % 65536 := by
  simp only [State.skipIf_pc_toNat, State.keyIs_iff]

theorem State.skipIf_not_keyIs_pc_toNat (s : State) (b : Byte) :
    (s.skipIf (!s.keyIs b)).pc.toNat = (s.pc.toNat + if s.key.map Fin.val = some b.toNat then 2 else 4) % 65536 := by
  simp only [State.skipIf_pc_toNat, Bool.not_eq_true', ← Bool.not_eq_true, ite_not, State.keyIs_iff]

/-- Settles O26: SKP skips on the pending key and SKNP on any other latch, and a skip writes `pc` alone. -/
theorem skpSknpCompareThePendingKey : Obligations.SkpSknpCompareThePendingKey :=
  fun x => ⟨decode_formatX 0xE x 0x9E rfl, decode_formatX 0xE x 0xA1 rfl,
    fun s => ⟨_, rfl, State.skipIf_keyIs_pc_toNat s (s.reg x), State.skipIf_onlyChanges s _⟩,
    fun s => ⟨_, rfl, State.skipIf_not_keyIs_pc_toNat s (s.reg x), State.skipIf_onlyChanges s _⟩⟩

/-! ### Timers (R162, R164, R165) -/

/-- Settles O27: `result` writes the value of the delay timer. -/
theorem ldVxDTReadsTheDelayTimer : Obligations.LdVxDTReadsTheDelayTimer :=
  fun x => ⟨decode_formatX 0xF x 0x07 rfl,
    fun s => ⟨_, rfl, State.reg_result_self s x s.dt, State.result_frame s x s.dt⟩⟩

/-- Settles O29: each instruction is one write of its timer and an advance. -/
theorem ldDTAndLdSTSetTheTimers : Obligations.LdDTAndLdSTSetTheTimers :=
  fun x => ⟨decode_formatX 0xF x 0x15 rfl, decode_formatX 0xF x 0x18 rfl,
    fun s => ⟨_, rfl, rfl, State.advance_pc_toNat (s.setDT _), exec_onlyChanges (i := .ldDTVx x) rfl⟩,
    fun s => ⟨_, rfl, rfl, State.advance_pc_toNat (s.setST _), exec_onlyChanges (i := .ldSTVx x) rfl⟩⟩

/-! ### The wait for a key (R163, R193) -/

/-- A Step of a waiting machine leaves the whole state (30_encoding.md R84). -/
theorem step_of_waiting {s : State} {x : RegIdx} (hwait : s.status = .waitingForKey x) : step s = .next s :=
  stepWith_of_not_running (by simp [hwait])

/-- The key that ends a wait goes to the register waited for, and `pc` stays (D17). -/
theorem setInput_some_of_waiting {s : State} {x : RegIdx} (hwait : s.status = .waitingForKey x) (k : KeyCode) :
    (setInput (some k) s).status = .running ∧ ((setInput (some k) s).reg x).toNat = k.val ∧
      (setInput (some k) s).pc = s.pc := by
  rw [setInput_waiting hwait]
  refine ⟨rfl, ?_, rfl⟩
  rw [State.reg_setStatus, State.reg_setReg, if_pos rfl, keyByte_toNat]

/-- Settles O28: the wait is entered whatever the latch holds; a Step and an empty latch keep it, a key ends it. -/
theorem ldVxKWaitsForAKey : Obligations.LdVxKWaitsForAKey := by
  refine fun x => ⟨decode_formatX 0xF x 0x0A rfl, fun s => ?_⟩
  have hwait : (s.setStatus (.waitingForKey x)).advance.status = .waitingForKey x := rfl
  refine ⟨_, rfl, hwait, State.advance_pc_toNat _, exec_onlyChanges (i := .ldVxK x) rfl, step_of_waiting hwait, ?_,
    setInput_some_of_waiting hwait⟩
  rw [setInput_latch (.inl rfl), State.setKey_status, hwait]

end Sys2Proof.Machine

namespace Sys2Proof.Machine

/-! ## The invariant (log entry 4; 60_exceptions.md R183) -/

/-! ### An instruction and a Step -/

theorem State.wf_dataWrite {s : State} (k : Nat) (b : Byte) (h : s.mem.wf) : (s.dataWrite k b).mem.wf :=
  State.wf_memWrite _ b h

/-- Every instruction keeps memory canonical: only `LD B, Vx` and `LD [I], Vx` write it, by `MemWrite`. -/
theorem exec_keeps_wf {i : Instr} {s t : State} (hm : s.mem.wf) (h : exec i s = .next t) : t.mem.wf := by
  cases i with
  | ldBVx x => cases h; exact State.wf_dataWrite 2 _ (State.wf_dataWrite 1 _ (State.wf_dataWrite 0 _ hm))
  | storeRegs x => cases h; exact State.wf_storeBlock _ hm
  | loadRegs x => cases h; rw [State.advance_mem, State.loadBlock_mem]; exact hm
  | ret => obtain ⟨h0, rfl⟩ | ⟨-, rfl⟩ := execRet_cases h <;> exact hm
  | call nnn => obtain ⟨h12, rfl⟩ | ⟨-, rfl⟩ := execCall_cases h <;> exact hm
  | _ => cases h; exact hm

/-- The invariant passes to a state with canonical memory whose `status` is the one before, or is no halt on an unknown
word. -/
theorem State.Inv.of_wf {cfg : Config} {s t : State} (hs : s.Inv cfg) (hm : t.mem.wf)
    (hst : t.status = s.status ∨ t.status ≠ .halted .unknownOpcode) : t.Inv cfg :=
  ⟨hm, fun hlenient => hst.elim (fun he => he ▸ hs.2 hlenient) id⟩

/-- The faults of an instruction are stack faults, so it keeps the invariant under either policy. -/
theorem exec_keeps_inv {cfg : Config} {i : Instr} {s t : State} (hs : s.Inv cfg) (h : exec i s = .next t) :
    t.Inv cfg := by
  refine hs.of_wf (exec_keeps_wf hs.1 h) ?_
  obtain hst | ⟨x, -, hst⟩ | ⟨-, hst⟩ | ⟨-, hst⟩ := exec_status h
  · exact .inl hst
  all_goals exact .inr (by simp [hst])

/-- An unknown word halts the machine only where the invariant allows it (R183). -/
theorem execUnknown_keeps_inv {cfg : Config} {s t : State} (hs : s.Inv cfg) (h : execUnknown cfg s = .next t) :
    t.Inv cfg := by
  obtain ⟨hstrict, rfl⟩ | ⟨-, rfl⟩ := execUnknown_cases h
  · exact ⟨hs.1, fun hlenient => by simp [hstrict] at hlenient⟩
  · exact hs

theorem stepWith_keeps_inv {cfg : Config} {s t : State} (hs : s.Inv cfg) (h : stepWith cfg s = .next t) :
    t.Inv cfg := by
  obtain ⟨-, i, -, hexec⟩ | ⟨-, -, hunk⟩ | ⟨-, rfl⟩ := stepWith_cases h
  · exact exec_keeps_inv hs hexec
  · exact execUnknown_keeps_inv hs hunk
  · exact hs

/-- Settles O53: a Step is an instruction, an unknown word or nothing, and each keeps the invariant. -/
theorem stepKeepsTheInvariant : Obligations.StepKeepsTheInvariant :=
  ⟨fun _ _ hs h => stepWith_keeps_inv hs h, fun _ _ _ hs h => stepWith_keeps_inv hs h⟩

/-! ### The host's transactions -/

theorem State.memWriteBytes_keeps_inv {cfg : Config} {s : State} (hs : s.Inv cfg) (a : Nat) (bs : List Byte) :
    (s.memWriteBytes a bs).Inv cfg :=
  hs.of_wf (State.wf_memWriteBytes a bs hs.1) (.inl (State.memWriteBytes_status s a bs))

theorem State.reset_inv (cfg : Config) : State.reset.Inv cfg := ⟨State.wf_reset, fun _ => by decide⟩

theorem State.resetWith_inv (cfg : Config) : (State.resetWith cfg).Inv cfg :=
  State.memWriteBytes_keeps_inv (State.reset_inv cfg) 0 _

theorem resetMachine_inv (cfg : Config) (s : State) : (resetMachine cfg s).Inv cfg :=
  State.memWriteBytes_keeps_inv (s := s.leaveByReset) (State.reset_inv cfg) 0 _

@[simp] theorem ticks_mem (k : Nat) (s : State) : (ticks k s).mem = s.mem := by
  induction k with
  | zero => rfl
  | succ k ih => rw [ticks_succ, tick_mem, ih]

theorem tickTimers_mem (elapsed : Duration) (s : State) : (tickTimers elapsed s).mem = s.mem := ticks_mem _ s

/-- `SetInput` ends a wait with its key, or writes the latch alone (60_exceptions.md R193). -/
theorem setInput_cases (k : Option KeyCode) (s : State) :
    (∃ r c, s.status = .waitingForKey r ∧ k = some c ∧
      setInput k s = ((s.setKey k).setReg r (keyByte c)).setStatus .running) ∨ setInput k s = s.setKey k := by
  cases k with
  | none => exact .inr (setInput_latch (.inl rfl))
  | some c =>
    by_cases hw : ∃ r, s.status = .waitingForKey r
    · obtain ⟨r, hr⟩ := hw
      exact .inl ⟨r, c, hr, rfl, setInput_waiting hr c⟩
    · exact .inr (setInput_latch (.inr (not_exists.mp hw)))

theorem setInput_keeps_inv {cfg : Config} {s : State} (hs : s.Inv cfg) (k : Option KeyCode) :
    (setInput k s).Inv cfg := by
  obtain ⟨r, c, -, -, he⟩ | he := setInput_cases k s <;> rw [he]
  · exact hs.of_wf hs.1 (.inr (by simp))
  · exact hs

theorem Session.act_keeps_inv {cfg : Config} {t : Transaction} {m m' : Session} {r : Reply}
    (hs : m.machine.Inv cfg) (h : m.act cfg t = .next (m', r)) : m'.machine.Inv cfg := by
  cases t with
  | reset => cases h; exact resetMachine_inv cfg m.machine
  | load bytes =>
    obtain hm | rfl := Session.load_machine h
    · rw [hm]; exact State.memWriteBytes_keeps_inv hs _ bytes
    · exact hs
  | step => exact stepWith_keeps_inv hs (Session.step_machine h)
  | tickTimers elapsed =>
    cases h
    exact hs.of_wf (by rw [tickTimers_mem]; exact hs.1) (.inl (tickTimers_status elapsed m.machine))
  | setInput k => cases h; exact setInput_keeps_inv hs k
  | tick | exportFrame | soundActive | readDT | readST | readStatus => cases h; exact hs

/-! ### Sequences of transactions -/

/-- A sequence that is answered is a first transaction that is answered, then the others from where it led. -/
theorem Session.runAll_cons_cases {cfg : Config} {t : Transaction} {ts : List Transaction} {m m' : Session}
    {rs : List Reply} (h : m.runAll cfg (t :: ts) = .next (m', rs)) :
    ∃ m₁ r rs₁, m.act cfg t = .next (m₁, r) ∧ m₁.runAll cfg ts = .next (m', rs₁) := by
  unfold Session.runAll at h
  split at h
  · next m₁ r hact =>
    split at h
    · next m₂ rs₁ hrest => cases h; exact ⟨m₁, r, rs₁, hact, hrest⟩
    · cases h
    · cases h
  · cases h
  · cases h

theorem Session.runAll_keeps_inv {cfg : Config} {ts : List Transaction} {m m' : Session} {rs : List Reply}
    (hs : m.machine.Inv cfg) (h : m.runAll cfg ts = .next (m', rs)) : m'.machine.Inv cfg := by
  induction ts generalizing m rs with
  | nil => cases h; exact hs
  | cons t ts ih =>
    obtain ⟨m₁, r, rs₁, hact, hrest⟩ := Session.runAll_cons_cases h
    exact ih (Session.act_keeps_inv hs hact) hrest

/-- Settles O54: each transaction keeps the invariant, and the machine is created in a reset state that meets it. -/
theorem everyTransactionKeepsTheInvariant : Obligations.EveryTransactionKeepsTheInvariant :=
  ⟨fun _ _ _ _ _ hs h => Session.act_keeps_inv hs h,
    fun cfg _ ⟨_, _, h⟩ => Session.runAll_keeps_inv (State.resetWith_inv cfg) h⟩

/-! ## Timers, input and output (60_exceptions.md R191 to R196) -/

/-! ### Frames, one after another -/

theorem OnlyChanges.refl (cs : List Component) (s : State) : OnlyChanges cs s s := by
  apply onlyChanges_of <;> simp

theorem OnlyChanges.trans {cs : List Component} {s t u : State} (h : OnlyChanges cs s t) (h' : OnlyChanges cs t u) :
    OnlyChanges cs s u := by
  intro c hc
  have hst := h c hc
  have htu := h' c hc
  cases c with
  | memory | registers => exact fun k => (htu k).trans (hst k)
  | stackSlots | pixels => exact fun k j => (htu k j).trans (hst k j)
  | _ => exact Eq.trans htu hst

theorem State.setKey_onlyChanges (s : State) (k : Option KeyCode) : OnlyChanges [.pendingKey] s (s.setKey k) := by
  apply onlyChanges_of <;> simp

theorem State.setRedraw_onlyChanges (s : State) (b : Bool) : OnlyChanges [.redrawFlag] s (s.setRedraw b) := by
  apply onlyChanges_of <;> simp

theorem tick_onlyChanges (s : State) : OnlyChanges [.delayTimer, .soundTimer] s (tick s) := by
  apply onlyChanges_of <;> simp

theorem ticks_onlyChanges (k : Nat) (s : State) : OnlyChanges [.delayTimer, .soundTimer] s (ticks k s) := by
  induction k with
  | zero => exact OnlyChanges.refl _ s
  | succ k ih => exact ih.trans (tick_onlyChanges _)

/-! ### The timers -/

/-- Truncated subtraction is the clamp at 0 (R191). -/
theorem timerTick_toNat (t : Byte) : (timerTick t).toNat = t.toNat - 1 := by
  unfold timerTick
  split
  · next h => subst h; rfl
  · next h =>
    have hpos : t.toNat ≠ 0 := fun h0 => h (BitVec.eq_of_toNat_eq h0)
    exact BitVec.toNat_sub_of_le (BitVec.le_def.mpr (Nat.one_le_iff_ne_zero.mpr hpos))

theorem ticks_dt_toNat (k : Nat) (s : State) : (ticks k s).dt.toNat = s.dt.toNat - k := by
  induction k with
  | zero => rfl
  | succ k ih => rw [ticks_succ, tick_dt, timerTick_toNat, ih, Nat.sub_sub]

theorem ticks_st_toNat (k : Nat) (s : State) : (ticks k s).st.toNat = s.st.toNat - k := by
  induction k with
  | zero => rfl
  | succ k ih => rw [ticks_succ, tick_st, timerTick_toNat, ih, Nat.sub_sub]

/-- The two bounds say that `k` is the floor of `elapsed * 60` (R192). -/
theorem wholeTicks_eq {elapsed : Duration} {k : Nat} (hle : k * elapsed.den ≤ elapsed.num * 60)
    (hlt : elapsed.num * 60 < (k + 1) * elapsed.den) : wholeTicks elapsed = k :=
  Nat.div_eq_of_lt_le hle hlt

/-- Settles O47: Tick writes each timer by `timerTick`. -/
theorem tickDecrementsBothTimers : Obligations.TickDecrementsBothTimers :=
  fun _ m => ⟨_, rfl, timerTick_toNat m.machine.dt, timerTick_toNat m.machine.st, tick_onlyChanges m.machine⟩

/-- Settles O48: TickTimers is as many Ticks as there are whole steps in the duration. -/
theorem tickTimersSubtractsWholeTicks : Obligations.TickTimersSubtractsWholeTicks := by
  intro cfg m elapsed k _ hle hlt
  have hticks : tickTimers elapsed m.machine = ticks k m.machine := by rw [tickTimers, wholeTicks_eq hle hlt]
  refine ⟨_, rfl, ?_⟩
  rw [hticks]
  exact ⟨ticks_dt_toNat k _, ticks_st_toNat k _, ticks_onlyChanges k _⟩

/-! ### SetInput, ExportFrame and the reads -/

/-- The latch holds what SetInput gave it, whether or not a wait ends. -/
@[simp] theorem setInput_key (k : Option KeyCode) (s : State) : (setInput k s).key = k := by
  obtain ⟨r, c, -, -, he⟩ | he := setInput_cases k s <;> rw [he] <;> rfl

/-- Settles O49: with a key and a wait, SetInput writes the latch, the register and `status`; else the latch alone. -/
theorem setInputUpdatesTheLatchAndEndsAWait : Obligations.SetInputUpdatesTheLatchAndEndsAWait := by
  intro cfg m k
  refine ⟨_, rfl, setInput_key k _, ?_, fun hidle => ?_⟩
  · rintro r c hwait rfl
    obtain ⟨hstatus, hreg, -⟩ := setInput_some_of_waiting hwait c
    refine ⟨hstatus, hreg, fun j hj => ?_, ?_⟩
    · rw [setInput_waiting hwait, State.reg_setStatus, State.reg_setReg, if_neg hj, State.reg_setKey]
    · rw [setInput_waiting hwait]
      apply onlyChanges_of <;> simp
  · rw [setInput_latch hidle]
    exact State.setKey_onlyChanges _ k

/-- Settles O50: ExportFrame answers the buffer and the flag, and clears the flag. -/
theorem exportFrameReadsAndClears : Obligations.ExportFrameReadsAndClears :=
  fun _ m => ⟨_, _, _, rfl, fun _ _ => rfl, rfl, rfl, State.setRedraw_onlyChanges m.machine false⟩

/-- Settles O51: the reads put back the machine they read, and `k` Ticks leave `ST - k`, clamped at 0. -/
theorem hostReadsChangeNothing : Obligations.HostReadsChangeNothing := by
  refine fun cfg m => ⟨rfl, rfl, rfl, rfl, fun k => ?_⟩
  rw [soundActive, ticks_st_toNat]
  exact decide_eq_decide.mpr Nat.sub_pos_iff_lt

/-! ## Machines that do not run (60_exceptions.md R189, R199) -/

/-- Settles O39: every arm of `exec` answers a next state, and so does a Step in every status. -/
theorem everyStepAnswersANextState : Obligations.EveryStepAnswersANextState :=
  ⟨exec_answers, stepWith_answers, stepWith_answers defaultConfig⟩

/-- What the host moves of a machine that does not run. -/
def hostParts : List Component := [.delayTimer, .soundTimer, .pendingKey, .redrawFlag]

/-- The transactions that cannot end the status `q` of a machine that does not run: neither Reset nor Load, nor a key
when the machine waits for one. -/
def Transaction.Keeps (q : Status) (t : Transaction) : Prop :=
  t ≠ .reset ∧ (∀ bytes, t ≠ .load bytes) ∧ ((∀ k, t ≠ .setInput (some k)) ∨ ∀ r, q ≠ .waitingForKey r)

/-- The host's own transactions on a machine that does not run: each is answered, and moves `hostParts` alone. -/
theorem Session.act_of_not_running (cfg : Config) {t : Transaction} {m : Session} (hrun : m.machine.status ≠ .running)
    (ht : t.Keeps m.machine.status) :
    ∃ m' r, m.act cfg t = .next (m', r) ∧ OnlyChanges hostParts m.machine m'.machine := by
  obtain ⟨hreset, hload, hkey⟩ := ht
  cases t with
  | reset => exact absurd rfl hreset
  | load bytes => exact absurd rfl (hload bytes)
  | step => exact ⟨_, _, Session.act_step (stepWith_of_not_running hrun), OnlyChanges.refl _ _⟩
  | tick => exact ⟨_, _, rfl, (tick_onlyChanges _).mono (by decide)⟩
  | tickTimers elapsed => exact ⟨_, _, rfl, (ticks_onlyChanges _ _).mono (by decide)⟩
  | setInput k =>
    have hlatch : k = none ∨ ∀ r, m.machine.status ≠ .waitingForKey r :=
      hkey.imp_left fun hk => Option.eq_none_iff_forall_ne_some.mpr fun c hc => hk c (by rw [hc])
    refine ⟨_, _, rfl, ?_⟩
    rw [setInput_latch hlatch]
    exact (State.setKey_onlyChanges _ k).mono (by decide)
  | exportFrame => exact ⟨_, _, rfl, (State.setRedraw_onlyChanges _ false).mono (by decide)⟩
  | soundActive | readDT | readST | readStatus => exact ⟨_, _, rfl, OnlyChanges.refl _ _⟩

/-- A sequence of such transactions is answered and moves `hostParts` alone, so `status` stays. -/
theorem Session.runAll_of_not_running (cfg : Config) {ts : List Transaction} {m : Session}
    (hrun : m.machine.status ≠ .running) (hts : ∀ t ∈ ts, t.Keeps m.machine.status) :
    ∃ m' rs, m.runAll cfg ts = .next (m', rs) ∧ m'.machine.status = m.machine.status ∧
      OnlyChanges hostParts m.machine m'.machine := by
  induction ts generalizing m with
  | nil => exact ⟨m, [], rfl, rfl, OnlyChanges.refl _ _⟩
  | cons t ts ih =>
    obtain ⟨ht, hts⟩ := List.forall_mem_cons.mp hts
    obtain ⟨m₁, r, hact, hframe⟩ := Session.act_of_not_running cfg hrun ht
    have hst : m₁.machine.status = m.machine.status := hframe .runStatus (by decide)
    obtain ⟨m', rs, hrest, hst', hframe'⟩ := ih (by rwa [hst]) (by rwa [hst])
    exact ⟨m', r :: rs, by simp only [Session.runAll, hact, hrest], hst'.trans hst, hframe.trans hframe'⟩

/-- Settles O59: no transaction but Reset and Load does more to a halted machine than move `hostParts`. -/
theorem haltedUntilReset : Obligations.HaltedUntilReset := by
  intro cfg ts m c hc hreset hload
  have hts : ∀ t ∈ ts, t.Keeps m.machine.status := fun t ht =>
    ⟨ne_of_mem_of_not_mem ht hreset, fun bytes => ne_of_mem_of_not_mem ht (hload bytes), .inr (by simp [hc])⟩
  have hrun : m.machine.status ≠ .running := by simp [hc]
  rw [← hc]
  exact Session.runAll_of_not_running cfg hrun hts

/-- Settles O60: with no key among them, the same holds of a waiting machine (D17). -/
theorem waitingUntilAKeyComes : Obligations.WaitingUntilAKeyComes := by
  intro cfg ts m x hx hreset hload hkey
  have hts : ∀ t ∈ ts, t.Keeps m.machine.status := fun t ht =>
    ⟨ne_of_mem_of_not_mem ht hreset, fun bytes => ne_of_mem_of_not_mem ht (hload bytes),
      .inl fun k => ne_of_mem_of_not_mem ht (hkey k)⟩
  have hrun : m.machine.status ≠ .running := by simp [hx]
  rw [← hx]
  exact Session.runAll_of_not_running cfg hrun hts

end Sys2Proof.Machine

namespace Sys2Proof.Machine

/-! ## Reset, Load and the self-jump (70_reset_and_hazards.md) -/

theorem State.memWriteBytes_onlyChanges (s : State) (a : Nat) (bs : List Byte) :
    OnlyChanges [.memory] s (s.memWriteBytes a bs) := by
  rw [State.memWriteBytes_eq]
  apply onlyChanges_of <;> simp

/-! ### Reset (R220) -/

@[simp] theorem State.reg_reset (k : RegIdx) : State.reset.reg k = 0 := Vector.getElem_replicate _

@[simp] theorem State.slot_reset (k : Nat) (hk : 1 ≤ k ∧ k ≤ 12) : State.reset.slot k hk = 0 :=
  Vector.getElem_replicate _

/-- Above the font table the reset contents are 0 (10_state.md R36). -/
theorem resetByte_of_ge {a : Nat} (h : 80 ≤ a) : resetByte a = 0 := dif_neg (Nat.not_lt.mpr h)

/-- Reset leaves the machine as created, but for the draw counter, which runs on (log entry 7). -/
theorem resetMachine_eq_resetWith (cfg : Config) (s : State) :
    resetMachine cfg s = { State.resetWith cfg with draws := s.draws } := by
  have hmem : (resetMachine cfg s).mem = (State.resetWith cfg).mem :=
    State.mem_memWriteBytes_congr (s := s.leaveByReset) (t := State.reset) rfl 0 _
  have hcreated : State.resetWith cfg = { State.reset with mem := (State.resetWith cfg).mem } :=
    State.memWriteBytes_eq _ _ _
  rw [resetMachine_eq, hmem, hcreated]

theorem resetMachine_onlyChanges_created (cfg : Config) (s : State) :
    OnlyChanges [.drawCounter] (State.resetWith cfg) (resetMachine cfg s) := by
  rw [resetMachine_eq_resetWith]
  apply onlyChanges_of <;> simp

/-- Every component but memory, where the font goes, and the draw counter is the one of `State.reset`. -/
theorem resetMachine_onlyChanges_reset (cfg : Config) (s : State) :
    OnlyChanges [.memory, .drawCounter] State.reset (resetMachine cfg s) :=
  ((State.memWriteBytes_onlyChanges State.reset 0 _).mono (by decide)).trans
    ((resetMachine_onlyChanges_created cfg s).mono (by decide))

theorem resetMachine_memRead_font (cfg : Config) (s : State) (a : Fin 80) :
    (resetMachine cfg s).memRead a.val = cfg.font[a.val] :=
  State.memRead_memWriteBytes_font s.leaveByReset cfg.font a.isLt

theorem resetMachine_memRead_of_ge (cfg : Config) (s : State) {a : Nat} (hlow : 80 ≤ a) (hhigh : a < 4096) :
    (resetMachine cfg s).memRead a = 0 := by
  have hlen : cfg.font.toList.length = 80 := cfg.font.length_toList
  calc (resetMachine cfg s).memRead a
      _ = s.leaveByReset.memRead a := State.memRead_memWriteBytes_of_ne _ 0 _ a fun k hk => by omega
      _ = resetByte (a % 4096) := rfl
      _ = 0 := by rw [Nat.mod_eq_of_lt hhigh, resetByte_of_ge hlow]

/-- Settles O44: memory is read through the font that Reset stores, and every other component is that of
`State.reset`. -/
theorem resetSetsEveryComponent : Obligations.ResetSetsEveryComponent := by
  intro cfg m
  have hframe := resetMachine_onlyChanges_reset cfg m.machine
  exact ⟨_, rfl, resetMachine_memRead_font cfg m.machine, fun _ => resetMachine_memRead_of_ge cfg m.machine,
    fun k => (hframe .registers (by decide) k).trans (State.reg_reset k),
    hframe .addressRegister (by decide), hframe .programCounter (by decide),
    fun k hk => (hframe .stackSlots (by decide) k hk).trans (State.slot_reset k hk),
    hframe .stackPointer (by decide), hframe .delayTimer (by decide), hframe .soundTimer (by decide),
    fun r c => (hframe .pixels (by decide) r c).trans (pixelAt_blankPixels r c),
    hframe .pendingKey (by decide), hframe .redrawFlag (by decide), hframe .runStatus (by decide),
    resetMachine_onlyChanges_created cfg m.machine⟩

/-- Settles O52: the reset contents list no cell, Reset stores the font by `MemWrite`, and the machine then runs. -/
theorem resetMeetsTheInvariant : Obligations.ResetMeetsTheInvariant :=
  fun cfg s => ⟨State.reset_inv cfg, State.resetWith_inv cfg, resetMachine_inv cfg s⟩

/-! ### Load (R221; 60_exceptions.md R184) -/

theorem loadImage_of_le {bytes : List Byte} (h : bytes.length ≤ 3584) (s : State) :
    loadImage bytes s = .next (s.memWriteBytes 0x200 bytes) :=
  if_pos (decide_eq_true h)

theorem loadImage_of_gt {bytes : List Byte} (h : 3584 < bytes.length) (s : State) :
    loadImage bytes s = .fault .loadTooLarge := by
  have hfits : ¬ imageFits bytes = true := by simpa [imageFits] using h
  exact if_neg hfits

theorem Session.load_of_le {bytes : List Byte} {m : Session} (hopen : m.loadOpen = true) (h : bytes.length ≤ 3584) :
    m.load bytes = .next (⟨m.machine.memWriteBytes 0x200 bytes, false⟩, .ok) := by
  simp only [Session.load, hopen, loadImage_of_le h, if_true]

theorem Session.load_of_gt {bytes : List Byte} {m : Session} (hopen : m.loadOpen = true) (h : 3584 < bytes.length) :
    m.load bytes = .next (m, .fault .loadTooLarge none) := by
  simp only [Session.load, hopen, loadImage_of_gt h, if_true]

theorem Session.load_of_closed {m : Session} (hclosed : m.loadOpen = false) (bytes : List Byte) :
    m.load bytes = .refused .loadOutsideLaunch := by
  simp [Session.load, hclosed]

/-- Settles O45: an image that fits ends by address 4095, so none of its bytes wraps onto another address. -/
theorem loadCopiesTheImage : Obligations.LoadCopiesTheImage := by
  refine fun cfg bytes m hopen => ⟨fun hfits => ?_, Session.load_of_gt hopen⟩
  refine ⟨_, Session.load_of_le hopen hfits, fun k hk => ?_, fun a ha hout => ?_,
    State.memWriteBytes_onlyChanges m.machine 0x200 bytes⟩
  · exact State.memRead_memWriteBytes m.machine 0x200 bytes (by omega) k hk
  · exact State.memRead_memWriteBytes_of_ne m.machine 0x200 bytes a fun k hk => by omega

/-! ### The Load window (R221; log entry 6) -/

/-- A Load that answers has succeeded and closed the window, or was too large and changed nothing. -/
theorem Session.load_cases {bytes : List Byte} {m m' : Session} {r : Reply} (h : m.load bytes = .next (m', r)) :
    (r = .ok ∧ m'.loadOpen = false) ∨ (r = .fault .loadTooLarge none ∧ m' = m) := by
  cases hopen : m.loadOpen with
  | false => rw [Session.load_of_closed hopen] at h; cases h
  | true =>
    obtain hgt | hle := Nat.lt_or_ge 3584 bytes.length
    · rw [Session.load_of_gt hopen hgt] at h; cases h; exact .inr ⟨rfl, rfl⟩
    · rw [Session.load_of_le hopen hle] at h; cases h; exact .inl ⟨rfl, rfl⟩

theorem Session.step_loadOpen {cfg : Config} {m m' : Session} {r : Reply} (h : m.step cfg = .next (m', r)) :
    m'.loadOpen = false := by
  obtain ⟨t, ht⟩ := stepWith_answers cfg m.machine
  cases (Session.act_step ht).symm.trans h
  rfl

/-- What a transaction does to the Load window: Reset opens it, a Step or a Load answered `ok` closes it, and any other
leaves it. -/
theorem Session.act_loadOpen {cfg : Config} {t : Transaction} {m m' : Session} {r : Reply}
    (h : m.act cfg t = .next (m', r)) :
    (t = .reset ∧ m'.loadOpen = true) ∨ (t = .step ∧ m'.loadOpen = false) ∨
      ((∃ bytes, t = .load bytes) ∧ r = .ok ∧ m'.loadOpen = false) ∨
      (t ≠ .reset ∧ t ≠ .step ∧ (∀ bytes, t = .load bytes → r ≠ .ok) ∧ m'.loadOpen = m.loadOpen) := by
  cases t with
  | reset => cases h; exact .inl ⟨rfl, rfl⟩
  | step => exact .inr (.inl ⟨rfl, Session.step_loadOpen h⟩)
  | load bytes =>
    obtain ⟨hok, hclosed⟩ | ⟨hfault, rfl⟩ := Session.load_cases h
    · exact .inr (.inr (.inl ⟨⟨bytes, rfl⟩, hok, hclosed⟩))
    · exact .inr (.inr (.inr ⟨nofun, nofun, by simp [hfault], rfl⟩))
  | tick | tickTimers elapsed | setInput k | exportFrame | soundActive | readDT | readST | readStatus =>
    cases h
    exact .inr (.inr (.inr ⟨nofun, nofun, nofun, rfl⟩))

/-- Settles O46: each clause is read off the four things a transaction can do to the window. -/
theorem loadIsOpenOnlyInTheLaunch : Obligations.LoadIsOpenOnlyInTheLaunch := by
  refine fun cfg bytes m => ⟨rfl, fun hclosed => Session.load_of_closed hclosed bytes, fun t m' r h => ?_⟩
  obtain ⟨rfl, hopen⟩ | ⟨rfl, hclosed⟩ | ⟨⟨bs, rfl⟩, hok, hclosed⟩ | ⟨hreset, hstep, hload, hsame⟩ :=
    Session.act_loadOpen h
  · exact ⟨fun _ => hopen, nofun, fun hne => absurd rfl hne, nofun, fun _ _ _ => hopen⟩
  · exact ⟨nofun, fun _ => hclosed, fun _ _ => hclosed, nofun, fun _ hne => absurd rfl hne⟩
  · exact ⟨nofun, nofun, fun _ _ => hclosed, fun _ _ _ => hclosed, fun _ _ hne => absurd hok (hne bs rfl)⟩
  · exact ⟨fun he => absurd he hreset, fun he => absurd he hstep, fun _ hclosed => hsame.trans hclosed,
      fun bs he hok => absurd hok (hload bs he), fun hopen _ _ => hsame.trans hopen⟩

/-! ### A jump to its own address (R230) -/

/-- Settles O41: the jump writes `pc` alone, and the address it writes is the one there. -/
theorem jumpToItselfIsAFixedPoint : Obligations.JumpToItselfIsAFixedPoint := by
  intro nnn s hrun hfetch hself
  have hpc : addrWord nnn = s.pc := BitVec.eq_of_toNat_eq ((addrWord_toNat nnn).trans hself.symm)
  calc step s
      _ = exec (.jp nnn) s := stepWith_of_decode hrun hfetch
      _ = .next (s.setPc (addrWord nnn)) := rfl
      _ = .next s := by rw [hpc]; rfl

end Sys2Proof.Machine
